-- ==== Sys2Proof/Word.lean ====
section
/-! DEFINITION. The word types of the block: bytes, byte sequences and 32-bit words (00_scope.md R8, R9, R11). -/

namespace Sys2Proof

/-- A byte, bit 7 most significant (00_scope.md R8). -/
abbrev Byte := BitVec 8

/-- A byte sequence, offset 0 first on the wire (00_scope.md R9). -/
abbrev Bytes := List Byte

/-- A 32-bit number: the widest register, and MD5's word. -/
abbrev Word := BitVec 32

end Sys2Proof
end

