-- ==== Sys2Proof/Config.lean ====
section
/-! DEFINITION. What an implementation fixes: the OPEN parameters of the block as plain data, their reference values, and the
decided constants (00_scope.md R5, R6, R7). -/

namespace Sys2Proof

/-- The OPEN parameters of 00_scope.md R5 and R6, as plain data. A model instance fixes them once (10_state.md R34).
The two version sets are held without the member the spec requires of every instance (R7): `VALID_MAJOR` is 1 and
`otherMajors`, `VALID_MINOR` is 2 and `otherMinors`, so no value of this type breaks the constraint (log entry 3).
`ENUM`, the record of nine sets of R6, is the eight fields from `action` on before `hasAuthorReply`, and `PrivLvl`, which needs no
field since R6 leaves it one value, 0 to 15 (log entry 4). -/
structure Params where
  /-- The members of `VALID_MAJOR` beside 1 (R5, R7). -/
  otherMajors : List (BitVec 4)
  /-- The members of `VALID_MINOR` beside 2 (R5, R7). -/
  otherMinors : List (BitVec 4)
  /-- `ENUM.Action` (R6). -/
  action : List Byte
  /-- `ENUM.AuthenType` (R6). -/
  authenType : List Byte
  /-- `ENUM.AuthenService` (R6). -/
  authenService : List Byte
  /-- `ENUM.AuthenStatus` (R6). -/
  authenStatus : List Byte
  /-- `ENUM.ReplyFlag` (R6). -/
  replyFlag : List Byte
  /-- The members of `ENUM.ContinueFlag` (R6) beside 0x00, which decision D21 puts in the set and 10_state.md R35 relies on
  (log entry 4). -/
  otherContinueFlags : List Byte
  /-- `ENUM.AuthorMethod` (R6). -/
  authorMethod : List Byte
  /-- `ENUM.AuthorStatus` (R6). -/
  authorStatus : List Byte
  /-- `HAS_AUTHOR_REPLY` (R5). -/
  hasAuthorReply : Bool
  deriving DecidableEq, Repr

/-- The reference values of R5 and R6, the ones the spec's own test vectors use; "not a claim about the source repository"
(DESIGN CHOICE, log entry 2). The numeric codes are the spec's from general knowledge (PRESUMED,
93_implementation_defined.md G2); their names stand in the order of R6. -/
def Config.reference : Params where
  otherMajors := [0, 1, 2, 3, 4, 5, 6, 7, 8, 9, 10, 11, 12, 13, 14, 15]
  otherMinors := [0, 1, 2, 3, 4, 5, 6, 7, 8, 9, 10, 11, 12, 13, 14, 15]
  -- LOGIN, CHPASS, SENDAUTH
  action := [0x01, 0x02, 0x04]
  -- ASCII, PAP, CHAP, MSCHAP, MSCHAPv2
  authenType := [0x01, 0x02, 0x03, 0x05, 0x06]
  -- NONE, LOGIN, ENABLE, PPP, PT, RCMD, X25, NASI, FWPROXY
  authenService := [0x00, 0x01, 0x02, 0x03, 0x05, 0x06, 0x07, 0x08, 0x09]
  -- PASS, FAIL, GETDATA, GETUSER, GETPASS, RESTART, ERROR, FOLLOW
  authenStatus := [0x01, 0x02, 0x03, 0x04, 0x05, 0x06, 0x07, 0x21]
  -- NoAction, NoEcho: the source's own codes
  replyFlag := [0x00, 0x01]
  -- Abort, the source's own code, beside 0x00
  otherContinueFlags := [0x01]
  -- NOT_SET, NONE, KRB5, LINE, ENABLE, LOCAL, TACACSPLUS, GUEST, RADIUS, KRB4, RCMD
  authorMethod := [0x00, 0x01, 0x02, 0x03, 0x04, 0x05, 0x06, 0x08, 0x10, 0x11, 0x20]
  -- PASS_ADD, PASS_REPL, FAIL, ERROR, FOLLOW
  authorStatus := [0x01, 0x02, 0x10, 0x11, 0x21]
  hasAuthorReply := false

/-- `BODY_CAP`, decided (R5, log entry 5). -/
def Config.bodyCap : Nat := 2 ^ 32 - 1

/-- `WIRE_CAP = BODY_CAP + 12`, decided (R5). -/
def Config.wireCap : Nat := Config.bodyCap + 12

/-- `HBUF_CAP`, decided (R5, log entry 5). -/
def Config.hbufCap : Nat := 2 ^ 32 - 1

/-- `SECRET_CAP`, decided (R5, log entry 5). -/
def Config.secretCap : Nat := 2 ^ 32 - 1

/-- The largest value of a one-byte length field: the cap of USER, PORT, REMADDR, CONTENT and every ARG (10_state.md R27). -/
def Config.shortCap : Nat := 255

/-- The largest value of a two-byte length field: the cap of MSG and DATA (10_state.md R27). -/
def Config.longCap : Nat := 65535

end Sys2Proof
end

