-- ==== Sys2Proof/Machine/Names.lean ====
section
/-! DEFINITION. The closed enumerations of register and buffer names, with the number, width, access, cap and class the spec
gives each (10_state.md R22, R27; 20_memory.md R50, R55: a missing register or buffer cannot be written down). -/

namespace Sys2Proof.Machine

/-- The 24 registers of 10_state.md R22. -/
inductive Reg where
  | cmd | status | errA | errB | errF
  | hMajor | hMinor | hType | hSeq | hFlags | hSid | hLen | hDerived | secretPresent
  | asAction | privLvl | authenType | authenSvc | arStatus | arFlags | acFlags | zqMethod | zrStatus | argCnt
  deriving DecidableEq, Repr

/-- What the host may do with a register (10_state.md R22): read and write, read only, write only. -/
inductive Access where
  | rw | ro | wo
  deriving DecidableEq, Repr

/-- Register numbers, column "No." of 10_state.md R22. -/
def Reg.number : Reg → Nat
  | .cmd => 0x00 | .status => 0x01 | .errA => 0x02 | .errB => 0x03 | .errF => 0x04
  | .hMajor => 0x10 | .hMinor => 0x11 | .hType => 0x12 | .hSeq => 0x13 | .hFlags => 0x14
  | .hSid => 0x15 | .hLen => 0x16 | .hDerived => 0x17 | .secretPresent => 0x18
  | .asAction => 0x20 | .privLvl => 0x21 | .authenType => 0x22 | .authenSvc => 0x23
  | .arStatus => 0x24 | .arFlags => 0x25 | .acFlags => 0x26 | .zqMethod => 0x27
  | .zrStatus => 0x28 | .argCnt => 0x29

/-- Register widths, column "W" of 10_state.md R22. -/
abbrev Reg.width : Reg → Nat
  | .cmd => 8 | .status => 32 | .errA => 32 | .errB => 32 | .errF => 8
  | .hMajor => 4 | .hMinor => 4 | .hType => 8 | .hSeq => 8 | .hFlags => 8
  | .hSid => 32 | .hLen => 32 | .hDerived => 2 | .secretPresent => 1
  | .asAction => 8 | .privLvl => 8 | .authenType => 8 | .authenSvc => 8
  | .arStatus => 8 | .arFlags => 8 | .acFlags => 8 | .zqMethod => 8
  | .zrStatus => 8 | .argCnt => 8

/-- Column "access" of 10_state.md R22. -/
def Reg.access : Reg → Access
  | .cmd => .wo
  | .status | .errA | .errB | .errF | .hDerived => .ro
  | .hMajor | .hMinor | .hType | .hSeq | .hFlags | .hSid | .hLen | .secretPresent
  | .asAction | .privLvl | .authenType | .authenSvc | .arStatus | .arFlags | .acFlags | .zqMethod
  | .zrStatus | .argCnt => .rw

/-- Every register once, in the order of 10_state.md R22. -/
def Reg.all : List Reg :=
  [.cmd, .status, .errA, .errB, .errF,
   .hMajor, .hMinor, .hType, .hSeq, .hFlags, .hSid, .hLen, .hDerived, .secretPresent,
   .asAction, .privLvl, .authenType, .authenSvc, .arStatus, .arFlags, .acFlags, .zqMethod, .zrStatus, .argCnt]

/-- The register a number names; none for a number 10_state.md R22 does not list ("does not exist", R22; 20_memory.md R55). -/
def Reg.ofNumber (n : Nat) : Option Reg :=
  Reg.all.find? fun r => r.number == n

/-- The buffers of 10_state.md R27: ten fixed ones and the 255 argument buffers `ARG[0]` to `ARG[254]`. -/
inductive Buf where
  | hbuf | wire | body | secret | user | port | remAddr | content | msg | data
  | arg (i : Fin 255)
  deriving DecidableEq, Repr

/-- The fixed protocol role of a buffer's content, column "class" of 10_state.md R27 (`raw` is the spec's "opaque"). -/
inductive BufClass where
  | text | raw | wire | key
  deriving DecidableEq, Repr

/-- Buffer ids, column "id" of 10_state.md R27. -/
def Buf.id : Buf → Nat
  | .hbuf => 0 | .wire => 1 | .body => 2 | .secret => 3 | .user => 4 | .port => 5
  | .remAddr => 6 | .content => 7 | .msg => 8 | .data => 9
  | .arg i => 0x100 + i.val

/-- Column "cap" of 10_state.md R27: the greatest length the buffer can hold. -/
def Buf.cap : Buf → Nat
  | .hbuf => Config.hbufCap
  | .wire => Config.wireCap
  | .body => Config.bodyCap
  | .secret => Config.secretCap
  | .user | .port | .remAddr | .content | .arg _ => Config.shortCap
  | .msg | .data => Config.longCap

/-- Column "class" of 10_state.md R27, fixed by protocol role (42_authen_codec.md R141). No command reads it. -/
def Buf.cls : Buf → BufClass
  | .hbuf | .wire | .body => .wire
  | .secret => .key
  | .user | .port | .remAddr | .msg => .text
  | .content | .data | .arg _ => .raw

/-- The ten buffers that are no argument buffer, in the order of 10_state.md R27. -/
def Buf.fixed : List Buf :=
  [.hbuf, .wire, .body, .secret, .user, .port, .remAddr, .content, .msg, .data]

/-- The buffer an id names; none for an id 10_state.md R27 does not list (20_memory.md R55). -/
def Buf.ofId (n : Nat) : Option Buf :=
  match Buf.fixed.find? fun b => b.id == n with
  | some b => some b
  | none => if h : 0x100 ≤ n ∧ n < 0x100 + 255 then some (.arg ⟨n - 0x100, by omega⟩) else none

end Sys2Proof.Machine
end

