-- ==== Sys2Proof/Machine/State.lean ====
section
/-! DEFINITION. The state of the block as plain data: the register space (10_state.md R22), the buffer space (R27), and the
model's own fields (the instance's parameters, what the host has yet to issue, what it was last answered), with the reset state
(R35, 70_reset_and_hazards.md R260, R261) and the reasons a step can stop. -/

namespace Sys2Proof.Machine

/-- The registers of 10_state.md R22 that hold a value, each of exactly its width. `CMD` holds none (20_memory.md R53) and
`H_DERIVED` is a function of `H_FLAGS`, never stored (10_state.md R24): both are computed where registers are read. -/
structure Regs where
  /-- `STATUS`, 0x01 (10_state.md R25). -/
  status : BitVec 32
  /-- `ERR_A`, 0x02 (R26). -/
  errA : BitVec 32
  /-- `ERR_B`, 0x03 (R26). -/
  errB : BitVec 32
  /-- `ERR_F`, 0x04 (R26). -/
  errF : BitVec 8
  /-- `H_MAJOR`, 0x10 (R23). -/
  hMajor : BitVec 4
  /-- `H_MINOR`, 0x11 (R23). -/
  hMinor : BitVec 4
  /-- `H_TYPE`, 0x12 (R23). -/
  hType : BitVec 8
  /-- `H_SEQ`, 0x13 (R23). -/
  hSeq : BitVec 8
  /-- `H_FLAGS`, 0x14 (R23). -/
  hFlags : BitVec 8
  /-- `H_SID`, 0x15 (R23). -/
  hSid : BitVec 32
  /-- `H_LEN`, 0x16 (R23). -/
  hLen : BitVec 32
  /-- `SECRET_PRESENT`, 0x18 (R29). -/
  secretPresent : BitVec 1
  /-- `AS_ACTION`, 0x20 (R31). -/
  asAction : BitVec 8
  /-- `PRIV_LVL`, 0x21 (R31, R32). -/
  privLvl : BitVec 8
  /-- `AUTHEN_TYPE`, 0x22 (R31, R32). -/
  authenType : BitVec 8
  /-- `AUTHEN_SVC`, 0x23 (R31, R32). -/
  authenSvc : BitVec 8
  /-- `AR_STATUS`, 0x24 (R31). -/
  arStatus : BitVec 8
  /-- `AR_FLAGS`, 0x25 (R31). -/
  arFlags : BitVec 8
  /-- `AC_FLAGS`, 0x26 (R31). -/
  acFlags : BitVec 8
  /-- `ZQ_METHOD`, 0x27 (R31). -/
  zqMethod : BitVec 8
  /-- `ZR_STATUS`, 0x28 (R31). -/
  zrStatus : BitVec 8
  /-- `ARG_CNT`, 0x29 (R30). -/
  argCnt : BitVec 8
  deriving DecidableEq, Repr

/-- The buffer space (10_state.md R27, 20_memory.md R50): each buffer is a byte sequence, and its length register is the
sequence's length. -/
structure Memory where
  /-- `HBUF`, id 0. -/
  hbuf : List (BitVec 8)
  /-- `WIRE`, id 1. -/
  wire : List (BitVec 8)
  /-- `BODY`, id 2. -/
  body : List (BitVec 8)
  /-- `SECRET`, id 3. -/
  secret : List (BitVec 8)
  /-- `USER`, id 4. -/
  user : List (BitVec 8)
  /-- `PORT`, id 5. -/
  port : List (BitVec 8)
  /-- `REMADDR`, id 6. -/
  remAddr : List (BitVec 8)
  /-- `CONTENT`, id 7. -/
  content : List (BitVec 8)
  /-- `MSG`, id 8. -/
  msg : List (BitVec 8)
  /-- `DATA`, id 9. -/
  data : List (BitVec 8)
  /-- `ARG[0]` to `ARG[254]`, ids 0x100 to 0x1FE. -/
  args : Vector (List (BitVec 8)) 255
  deriving DecidableEq, Repr

/-- One thing the outside does to the block: a host transaction (20_memory.md R52 to R55), or a hardware reset
(70_reset_and_hazards.md R260). A register value has exactly the register's width, so a wider one cannot be written down
(R52). A `regWrite` to `CMD` executes a command (R53). -/
inductive HostTxn where
  /-- `RegWrite(n, v)` (R52, R53). -/
  | regWrite (r : Reg) (v : BitVec r.width)
  /-- `RegRead(n)` (R54). -/
  | regRead (r : Reg)
  /-- `LenRead(id)` (R54). -/
  | lenRead (b : Buf)
  /-- `BufLoad(id, bytes)` (R55). -/
  | bufLoad (b : Buf) (bytes : List (BitVec 8))
  /-- `BufRead(id)` (R55). -/
  | bufRead (b : Buf)
  /-- `BufReadByte(id, off)` (R55). -/
  | bufReadByte (b : Buf) (off : Nat)
  /-- A hardware reset between transactions (70_reset_and_hazards.md R260; log entry 8). -/
  | hardReset
  deriving DecidableEq, Repr

/-- What a transaction returns to the host (20_memory.md R54, R55). -/
inductive HostAnswer where
  /-- The value of a register. -/
  | reg (r : Reg) (v : BitVec r.width)
  /-- The length of a buffer. -/
  | len (n : Nat)
  /-- The whole content of a buffer. -/
  | bytes (bs : List (BitVec 8))
  /-- One byte of a buffer. -/
  | byte (b : BitVec 8)
  deriving DecidableEq, Repr

/-- The state. `regs` and `mem` are all the state the spec gives the block ("nothing else", 10_state.md R20). `params`, `pending`
and `answer` are the model's own (log entries 1 and 2). -/
structure State where
  /-- The OPEN parameters of this instance (00_scope.md R5); no step changes them (10_state.md R34). -/
  params : Params
  /-- The register space. -/
  regs : Regs
  /-- The buffer space. -/
  mem : Memory
  /-- What the host has yet to issue, oldest first (the host's, 10_state.md R21; 20_memory.md R61). -/
  pending : List HostTxn
  /-- What the last transaction returned to the host, if it returned anything. -/
  answer : Option HostAnswer
  deriving DecidableEq, Repr

/-- The reasons the model stops with a fault. No command raises one: a command's error is a NEXT state (60_exceptions.md R239). -/
inductive Fault where
  /-- Raised by the host transaction `BufReadByte(id, off)` with `off` at or past the buffer's length: a location that does not
  exist (20_memory.md R50, R55). Safe: the interface has no such transaction, and the model stops. -/
  | noSuchByte (b : Buf) (off : Nat)
  deriving DecidableEq, Repr

/-- The reasons the model refuses. -/
inductive Refusal where
  /-- Raised by an arm of `exec` for a command that has no meaning yet. Safe: nothing is claimed of it. No arm raises it. -/
  | notModelled (mnemonic : String)
  /-- Raised by the host transaction `BufLoad(id, bytes)` with more bytes than the buffer's cap, which "is not a transaction of
  the interface" (20_memory.md R55). Safe: the model stops. -/
  | loadTooLong (b : Buf) (len : Nat)
  deriving DecidableEq, Repr

/-- Every register's reset value, column "reset" of 10_state.md R22 (R35: all 0). -/
def Regs.reset : Regs where
  status := 0
  errA := 0
  errB := 0
  errF := 0
  hMajor := 0
  hMinor := 0
  hType := 0
  hSeq := 0
  hFlags := 0
  hSid := 0
  hLen := 0
  secretPresent := 0
  asAction := 0
  privLvl := 0
  authenType := 0
  authenSvc := 0
  arStatus := 0
  arFlags := 0
  acFlags := 0
  zqMethod := 0
  zrStatus := 0
  argCnt := 0

/-- Every buffer empty (10_state.md R35). -/
def Memory.reset : Memory where
  hbuf := []
  wire := []
  body := []
  secret := []
  user := []
  port := []
  remAddr := []
  content := []
  msg := []
  data := []
  args := Vector.replicate 255 []

/-- The block right after reset, for any parameters of the instance, with nothing issued by the host yet (10_state.md R35,
70_reset_and_hazards.md R260). -/
def State.resetWith (p : Params) : State where
  params := p
  regs := Regs.reset
  mem := Memory.reset
  pending := []
  answer := none

/-- The machine right after reset, under the reference parameters of 00_scope.md R5 and R6 (DESIGN CHOICE, log entry 2). -/
def State.reset : State := State.resetWith Config.reference

end Sys2Proof.Machine
end

