-- ==== Sys2Proof/Syntax.lean ====
section
/-! DEFINITION. The commands of the block, one constructor per row of spec/opcode_table.json (30_encoding.md R72).
Commands carry no register fields and no immediates (R71), so no constructor has an argument. -/

namespace Sys2Proof

/-- A legal command (30_encoding.md R72). -/
inductive Instr where
  /-- `NOP`, 45_system_ops.md R221. -/
  | nop
  /-- `CLRF`, clear the fault latch, 45_system_ops.md R222. -/
  | clrf
  /-- `SRST`, soft reset, 45_system_ops.md R223. -/
  | srst
  /-- `HDR_ENC`, 40_header_codec.md R95. -/
  | hdrEnc
  /-- `HDR_DEC`, 40_header_codec.md R97. -/
  | hdrDec
  /-- `CIPHER`, 41_body_cipher.md R112. -/
  | cipher
  /-- `AS_ENC`, 42_authen_codec.md R144. -/
  | asEnc
  /-- `AS_DEC`, 42_authen_codec.md R145. -/
  | asDec
  /-- `AR_ENC`, 42_authen_codec.md R147. -/
  | arEnc
  /-- `AR_DEC`, 42_authen_codec.md R148. -/
  | arDec
  /-- `AC_ENC`, 42_authen_codec.md R150. -/
  | acEnc
  /-- `AC_DEC`, 42_authen_codec.md R151. -/
  | acDec
  /-- `ZQ_ENC`, 43_author_codec.md R182. -/
  | zqEnc
  /-- `ZR_DEC`, 43_author_codec.md R185. -/
  | zrDec
  /-- `PKT_ASM`, 44_packet_ops.md R201. -/
  | pktAsm
  /-- `PKT_DIS`, 44_packet_ops.md R202. -/
  | pktDis
  /-- `BODY_DEC`, 44_packet_ops.md R204. -/
  | bodyDec
  deriving DecidableEq, Repr

end Sys2Proof
end

