-- ==== Sys2Proof/WellFormed.lean ====
section
/-! DEFINITION. Well-formedness. A command carries no field (30_encoding.md R71), so every command is well formed; a host
transaction is checked for the one bound its types do not carry, the cap of the buffer it loads (20_memory.md R55). -/

namespace Sys2Proof

/-- Every command is well formed: there is no field that could be out of range (30_encoding.md R70, R71). -/
def Instr.wellFormed : Instr → Bool
  | .nop | .clrf | .srst | .hdrEnc | .hdrDec | .cipher
  | .asEnc | .asDec | .arEnc | .arDec | .acEnc | .acDec
  | .zqEnc | .zrDec | .pktAsm | .pktDis | .bodyDec => true

/-- `BufLoad` with more bytes than the cap "is not a transaction of the interface" (20_memory.md R55, 10_state.md R28). The
other transactions are bounded by their types (R52). -/
def Machine.HostTxn.wellFormed : Machine.HostTxn → Bool
  | .bufLoad b bytes => decide (bytes.length ≤ b.cap)
  | .regWrite _ _ | .regRead _ | .lenRead _ | .bufRead _ | .bufReadByte _ _ | .hardReset => true

end Sys2Proof
end

