-- ==== Sys2Proof/Decode.lean ====
section
/-! DEFINITION. The command word (30_encoding.md R70 to R75): the decoder, total on every byte and refusing by name, and the
encoder, both from the opcode map of R72. -/

namespace Sys2Proof

/-- Why a command word is no legal command (30_encoding.md R73). -/
inductive DecodeError where
  /-- One of the eighteen opcodes held back for operations the source names but does not define (R73). -/
  | heldBack (op : Byte)
  /-- Any other opcode outside the map (R73, R75). -/
  | illegal (op : Byte)
  /-- No byte to decode. -/
  | noWord
  deriving DecidableEq, Repr

/-- The opcodes held back: 0x41, 0x42, and 0x60 to 0x6F (30_encoding.md R73). -/
def isHeldBack (op : Byte) : Bool :=
  op == 0x41 || op == 0x42 || op.extractLsb' 4 4 == 0x6

/-- The command a word selects (30_encoding.md R72); the last arm refuses "an opcode nobody thought of" (R73). -/
def decode (op : Byte) : Except DecodeError Instr :=
  match op.toNat with
  | 0x00 => .ok .nop
  | 0x01 => .ok .clrf
  | 0x02 => .ok .srst
  | 0x10 => .ok .hdrEnc
  | 0x11 => .ok .hdrDec
  | 0x20 => .ok .cipher
  | 0x30 => .ok .asEnc
  | 0x31 => .ok .asDec
  | 0x32 => .ok .arEnc
  | 0x33 => .ok .arDec
  | 0x34 => .ok .acEnc
  | 0x35 => .ok .acDec
  | 0x40 => .ok .zqEnc
  | 0x43 => .ok .zrDec
  | 0x50 => .ok .pktAsm
  | 0x51 => .ok .pktDis
  | 0x52 => .ok .bodyDec
  | _ => .error (if isHeldBack op then .heldBack op else .illegal op)

/-- The first command of a sequence of command words, with the rest: every command is one byte long (30_encoding.md R70). -/
def decodeBytes : Bytes → Except DecodeError (Instr × Bytes)
  | [] => .error .noWord
  | op :: rest =>
    match decode op with
    | .ok i => .ok (i, rest)
    | .error e => .error e

/-- The word of a command, column "op" of 30_encoding.md R72. -/
def encode : Instr → Byte
  | .nop => 0x00
  | .clrf => 0x01
  | .srst => 0x02
  | .hdrEnc => 0x10
  | .hdrDec => 0x11
  | .cipher => 0x20
  | .asEnc => 0x30
  | .asDec => 0x31
  | .arEnc => 0x32
  | .arDec => 0x33
  | .acEnc => 0x34
  | .acDec => 0x35
  | .zqEnc => 0x40
  | .zrDec => 0x43
  | .pktAsm => 0x50
  | .pktDis => 0x51
  | .bodyDec => 0x52

/-- The words of a command: one (30_encoding.md R70). -/
def encodeBytes (i : Instr) : Bytes := [encode i]

/-- The word written to `CMD` for an instruction whose `nbits` bits are `w` in the numbering of spec/opcode_table.json: a command
is its first byte (30_encoding.md R70). -/
def tableWord (nbits w : Nat) : Byte := BitVec.ofNat 8 (w % 2 ^ nbits)

/-- What the decoder reads from an instruction given as spec/opcode_table.json numbers its bits. -/
def decodeTableWord (nbits w : Nat) : Option Instr :=
  match decodeBytes [tableWord nbits w] with
  | .ok (i, _) => some i
  | .error _ => none

end Sys2Proof
end

