-- ==== Sys2Proof/Machine/Flags.lean ====
section
/-! DEFINITION. The fields of STATUS (10_state.md R25) and the derived flag bits H_DERIVED (R24). -/

namespace Sys2Proof.Machine

/-- The word STATUS holds for an error code and the fault latch: `ERR` in bits 3:0, `FLT` in bit 4, bits 31:5 read as 0
(10_state.md R25). -/
def statusWord (err : BitVec 4) (flt : Bool) : BitVec 32 :=
  BitVec.setWidth 32 (BitVec.ofBool flt ++ err)

/-- `STATUS.ERR`, bits 3:0 (10_state.md R25). -/
def statusErr (w : BitVec 32) : BitVec 4 := w.extractLsb' 0 4

/-- `STATUS.FLT`, bit 4 (10_state.md R25). -/
def statusFlt (w : BitVec 32) : Bool := w.getLsbD 4

/-- The bits 31:5 of STATUS (10_state.md R25: "read as 0"). -/
def statusReserved (w : BitVec 32) : BitVec 27 := w.extractLsb' 5 27

/-- The Unencrypted flag of a flags byte, bit 0 (40_header_codec.md R90). -/
def flagUnencrypted (flags : Byte) : Bool := flags &&& 0x01 != 0

/-- The SingleConnect flag of a flags byte, bit 2, mask 0x04 (10_state.md R24, 90_conflicts.md C5, 70_reset_and_hazards.md
R282). -/
def flagSingleConnect (flags : Byte) : Bool := flags &&& 0x04 != 0

/-- `H_DERIVED`: bit 0 is `IS_ENCRYPTED`, 1 when the Unencrypted flag is clear; bit 1 is `IS_SINGLE_CONNECT` (10_state.md R24). -/
def hDerived (flags : Byte) : BitVec 2 :=
  BitVec.ofBool (flagSingleConnect flags) ++ BitVec.ofBool (!flagUnencrypted flags)

end Sys2Proof.Machine
end

