-- ==== Sys2Proof/Machine/Operands.lean ====
section
/-! DEFINITION. Every operand form: reading and writing a register by name (20_memory.md R52 to R54), reading and writing a
buffer (00_scope.md R12), the bound on buffers (10_state.md R28), and the closed sets a code is checked against (00_scope.md
R5, R6, R7). -/

namespace Sys2Proof.Machine

/-- `x[n]` (00_scope.md R12, 20_memory.md R54). `CMD` holds no value and reads 0 (R53); `H_DERIVED` follows `H_FLAGS`
(10_state.md R24). -/
def Regs.read (x : Regs) : (r : Reg) → BitVec r.width
  | .cmd => 0
  | .status => x.status
  | .errA => x.errA
  | .errB => x.errB
  | .errF => x.errF
  | .hMajor => x.hMajor
  | .hMinor => x.hMinor
  | .hType => x.hType
  | .hSeq => x.hSeq
  | .hFlags => x.hFlags
  | .hSid => x.hSid
  | .hLen => x.hLen
  | .hDerived => hDerived x.hFlags
  | .secretPresent => x.secretPresent
  | .asAction => x.asAction
  | .privLvl => x.privLvl
  | .authenType => x.authenType
  | .authenSvc => x.authenSvc
  | .arStatus => x.arStatus
  | .arFlags => x.arFlags
  | .acFlags => x.acFlags
  | .zqMethod => x.zqMethod
  | .zrStatus => x.zrStatus
  | .argCnt => x.argCnt

/-- The host's write of a register: an RW register takes the value, a write to an RO register "changes nothing"
(20_memory.md R52). A write to `CMD` stores nothing; the command it starts is `runCommand` (R53). -/
def Regs.write (x : Regs) : (r : Reg) → BitVec r.width → Regs
  | .cmd, _ => x
  | .status, _ => x
  | .errA, _ => x
  | .errB, _ => x
  | .errF, _ => x
  | .hMajor, v => { x with hMajor := v }
  | .hMinor, v => { x with hMinor := v }
  | .hType, v => { x with hType := v }
  | .hSeq, v => { x with hSeq := v }
  | .hFlags, v => { x with hFlags := v }
  | .hSid, v => { x with hSid := v }
  | .hLen, v => { x with hLen := v }
  | .hDerived, _ => x
  | .secretPresent, v => { x with secretPresent := v }
  | .asAction, v => { x with asAction := v }
  | .privLvl, v => { x with privLvl := v }
  | .authenType, v => { x with authenType := v }
  | .authenSvc, v => { x with authenSvc := v }
  | .arStatus, v => { x with arStatus := v }
  | .arFlags, v => { x with arFlags := v }
  | .acFlags, v => { x with acFlags := v }
  | .zqMethod, v => { x with zqMethod := v }
  | .zrStatus, v => { x with zrStatus := v }
  | .argCnt, v => { x with argCnt := v }

/-- The whole content of a buffer; `B_LEN` is its length (10_state.md R27). -/
def Memory.read (m : Memory) : Buf → Bytes
  | .hbuf => m.hbuf
  | .wire => m.wire
  | .body => m.body
  | .secret => m.secret
  | .user => m.user
  | .port => m.port
  | .remAddr => m.remAddr
  | .content => m.content
  | .msg => m.msg
  | .data => m.data
  | .arg i => m.args[i.val]

/-- `MemWrite(B, bytes)`: replaces the whole content of the buffer, and so its length (00_scope.md R12). -/
def Memory.write (m : Memory) : Buf → Bytes → Memory
  | .hbuf, bs => { m with hbuf := bs }
  | .wire, bs => { m with wire := bs }
  | .body, bs => { m with body := bs }
  | .secret, bs => { m with secret := bs }
  | .user, bs => { m with user := bs }
  | .port, bs => { m with port := bs }
  | .remAddr, bs => { m with remAddr := bs }
  | .content, bs => { m with content := bs }
  | .msg, bs => { m with msg := bs }
  | .data, bs => { m with data := bs }
  | .arg i, bs => { m with args := m.args.set i.val bs }

/-- One byte of a buffer, where there is one (20_memory.md R50: a location is a pair (buffer id, byte offset) with
`0 <= offset < B_LEN`). -/
def Memory.readByte (m : Memory) (b : Buf) (off : Nat) : Option Byte := (m.read b)[off]?

/-- The canonical form of the buffer space: every buffer within its cap (10_state.md R28). -/
def Memory.wf (m : Memory) : Bool :=
  Buf.fixed.all (fun b => decide ((m.read b).length ≤ b.cap)) &&
    m.args.toList.all (fun bs => decide (bs.length ≤ Config.shortCap))

/-- `MemRead(B, off, n)`, the bytes `B[off .. off+n)` (00_scope.md R12; used where a rule has shown them to exist). -/
def memRead (bs : Bytes) (off n : Nat) : Bytes := (bs.drop off).take n

/-- `B[i]`. A rule reads a byte only after it has shown it to exist (42_authen_codec.md R142, R154): where there is none, an
earlier check of the same command has failed and the value read here is not used (log entry 10). -/
def byteAt (bs : Bytes) (i : Nat) : Byte := bs.getD i 0

/-- Replaces the argument buffers from index `i` on, one for each listed content; the others keep theirs
(43_author_codec.md R185). -/
def writeArgs (args : Vector Bytes 255) (i : Nat) : List Bytes → Vector Bytes 255
  | [] => args
  | bs :: rest => writeArgs (args.setIfInBounds i bs) (i + 1) rest

/-- `v ∈ VALID_MAJOR`; 1 is a member in every instance (00_scope.md R5, R7). -/
def validMajor (p : Params) (v : BitVec 4) : Bool := v == 1 || p.otherMajors.contains v

/-- `v ∈ VALID_MINOR`; 2 is a member in every instance (00_scope.md R5, R7). -/
def validMinor (p : Params) (v : BitVec 4) : Bool := v == 2 || p.otherMinors.contains v

/-- `v ∈ VALID_TYPE`, {1, 2, 3} (00_scope.md R5). -/
def validType (v : Byte) : Bool := v == 1 || v == 2 || v == 3

/-- `v ∈ VALID_FLAGS`, that is `(v & 0xFA) = 0` (40_header_codec.md R94). -/
def validFlags (v : Byte) : Bool := v &&& 0xFA == 0

/-- Privilege level 0 to 15 (00_scope.md R6, 42_authen_codec.md R143). -/
def validPrivLvl (v : Byte) : Bool := decide (v.toNat ≤ 15)

/-- `v ∈ ENUM.Action`. -/
def validAction (p : Params) (v : Byte) : Bool := p.action.contains v

/-- `v ∈ ENUM.AuthenType`. -/
def validAuthenType (p : Params) (v : Byte) : Bool := p.authenType.contains v

/-- `v ∈ ENUM.AuthenService`. -/
def validAuthenService (p : Params) (v : Byte) : Bool := p.authenService.contains v

/-- `v ∈ ENUM.AuthenStatus`. -/
def validAuthenStatus (p : Params) (v : Byte) : Bool := p.authenStatus.contains v

/-- `v ∈ ENUM.ReplyFlag` (00_scope.md R6; the reference set is {0x00 NoAction, 0x01 NoEcho}, 42_authen_codec.md R146). -/
def validReplyFlag (p : Params) (v : Byte) : Bool := p.replyFlag.contains v

/-- `v ∈ ENUM.ContinueFlag` (00_scope.md R6; the reference set is {0x00, 0x01 Abort}, 42_authen_codec.md R149); 0x00 is a member in
every instance (decision D21, 10_state.md R35; log entry 4). -/
def validContinueFlag (p : Params) (v : Byte) : Bool := v == 0 || p.otherContinueFlags.contains v

/-- `v ∈ ENUM.AuthorMethod`. -/
def validAuthorMethod (p : Params) (v : Byte) : Bool := p.authorMethod.contains v

/-- `v ∈ ENUM.AuthorStatus`. -/
def validAuthorStatus (p : Params) (v : Byte) : Bool := p.authorStatus.contains v

end Sys2Proof.Machine
end

