-- ==== Sys2Proof/Machine/Ops.lean ====
section
/-! DEFINITION. The shared operations: big-endian numbers (00_scope.md R10), the typed errors (60_exceptions.md R231 to R236),
ending a command in success or in an error (R237 to R239), and reset (70_reset_and_hazards.md R260). -/

namespace Sys2Proof.Machine

/-- `be16` (00_scope.md R10). -/
def be16 (n : BitVec 16) : Bytes := [n.extractLsb' 8 8, n.extractLsb' 0 8]

/-- `be32` (00_scope.md R10). -/
def be32 (n : Word) : Bytes :=
  [n.extractLsb' 24 8, n.extractLsb' 16 8, n.extractLsb' 8 8, n.extractLsb' 0 8]

/-- `unbe16` of the two bytes at an offset: most significant first (00_scope.md R10). -/
def unbe16 (bs : Bytes) (off : Nat) : BitVec 16 := byteAt bs off ++ byteAt bs (off + 1)

/-- `unbe32` of the four bytes at an offset: most significant first (00_scope.md R10). -/
def unbe32 (bs : Bytes) (off : Nat) : Word :=
  byteAt bs off ++ byteAt bs (off + 1) ++ byteAt bs (off + 2) ++ byteAt bs (off + 3)

/-- A buffer's length as a one-byte length field; exact for a buffer within the cap 255 (10_state.md R27). -/
def len8 (bs : Bytes) : Byte := BitVec.ofNat 8 bs.length

/-- A buffer's length as a two-byte length field; exact for a buffer within the cap 65535 (10_state.md R27). -/
def len16 (bs : Bytes) : BitVec 16 := BitVec.ofNat 16 bs.length

/-- The error kinds (60_exceptions.md R231). `transportError`, `sessionRestartRequired` and `unsupportedTransition` are the host's;
the block never raises them (R245). -/
inductive ErrKind where
  | invalidSize | invalidField | lengthMismatch | unsupportedType | transportError
  | sessionRestartRequired | configError | illegalCommand | unsupportedTransition
  deriving DecidableEq, Repr

/-- The code of an error kind in `STATUS.ERR` (60_exceptions.md R231). -/
def ErrKind.code : ErrKind → BitVec 4
  | .invalidSize => 1
  | .invalidField => 2
  | .lengthMismatch => 3
  | .unsupportedType => 4
  | .transportError => 5
  | .sessionRestartRequired => 6
  | .configError => 7
  | .illegalCommand => 8
  | .unsupportedTransition => 9

/-- What an error records: `K(a, b, f)` (00_scope.md R12, 60_exceptions.md R236). -/
structure CmdError where
  /-- The kind `K`. -/
  kind : ErrKind
  /-- The first information value, for `ERR_A`. -/
  a : Nat
  /-- The second information value, for `ERR_B`. -/
  b : Nat
  /-- The field id, for `ERR_F`. -/
  f : Nat
  deriving DecidableEq, Repr

/-- Error entry (60_exceptions.md R239): `STATUS.ERR`, `STATUS.FLT`, `ERR_A`, `ERR_B` and `ERR_F` are written and nothing else. Every
value the rules put there fits its register in a state within the buffer caps (10_state.md R26; log entry 12). -/
def State.enterError (s : State) (e : CmdError) : State :=
  { s with regs := { s.regs with
      status := statusWord e.kind.code true
      errA := BitVec.ofNat 32 e.a
      errB := BitVec.ofNat 32 e.b
      errF := BitVec.ofNat 8 e.f } }

/-- `raise K(a, b, f)` (00_scope.md R12, 60_exceptions.md R236). -/
def State.raise (s : State) (k : ErrKind) (a b f : Nat) : State := s.enterError ⟨k, a, b, f⟩

/-- Successful completion (60_exceptions.md R238): `STATUS.ERR`, `ERR_A`, `ERR_B` and `ERR_F` become 0 and `STATUS.FLT` keeps its
value. -/
def State.complete (s : State) : State :=
  { s with regs := { s.regs with
      status := statusWord 0 (statusFlt s.regs.status)
      errA := 0
      errB := 0
      errF := 0 } }

/-- One check of a command's rule: whether it fails, and the error it then raises. -/
abbrev Check := Bool × CmdError

/-- The first check that fails, if one does: "the first check that fails decides the error reported" (00_scope.md R13,
60_exceptions.md R237). -/
def firstFailure : List Check → Option CmdError
  | [] => none
  | (failed, e) :: rest => if failed then some e else firstFailure rest

/-- Ends a command that makes these checks in this order and, if all pass, leaves the state `after`: all or nothing
(60_exceptions.md R237 to R239). -/
def State.settle (s : State) (checks : List Check) (after : State) : State :=
  match firstFailure checks with
  | some e => s.enterError e
  | none => after.complete

/-- `MIN`, or the bytes called for, against the bytes present: `n < needed` raises `InvalidSize(needed, n, 0)`
(42_authen_codec.md R142 checks 1 and 3). -/
def sizeCheck (needed n : Nat) : Check := (decide (n < needed), ⟨.invalidSize, needed, n, 0⟩)

/-- A code against its closed set: outside it raises `InvalidField(code, 0, field id)` (60_exceptions.md R233). -/
def fieldCheck (valid : Bool) (code : Nat) (fieldId : Nat) : Check := (!valid, ⟨.invalidField, code, 0, fieldId⟩)

/-- A declared length against the cursor: different raises `LengthMismatch(declared, cursor, 0)` (42_authen_codec.md R142 checks 4
and 5). -/
def lengthCheck (declared cursor : Nat) : Check := (declared != cursor, ⟨.lengthMismatch, declared, cursor, 0⟩)

/-- The last three checks of every parser: bounded reads, cursor against `H_LEN`, cursor against `BODY_LEN`
(42_authen_codec.md R142 checks 3, 4 and 5). -/
def cursorChecks (need n l : Nat) : List Check := [sizeCheck need n, lengthCheck l need, lengthCheck n need]

/-- `MemWrite(B, bytes)` on the state (00_scope.md R12). -/
def State.writeBuf (s : State) (b : Buf) (bs : Bytes) : State := { s with mem := s.mem.write b bs }

/-- Every register at its reset value and every buffer empty (10_state.md R35, 70_reset_and_hazards.md R260): what a hardware reset and
`SRST` do. The parameters are no state of the block (10_state.md R34), and what the host has yet to issue is the host's (R21). -/
def State.resetBlock (s : State) : State := { s with regs := Regs.reset, mem := Memory.reset }

end Sys2Proof.Machine
end

