-- ==== Sys2Proof/Machine/Authen.lean ====
section
/-! DEFINITION. The Authentication body codec (42_authen_codec.md): AS_ENC, AS_DEC, AR_ENC, AR_DEC, AC_ENC, AC_DEC. -/

namespace Sys2Proof.Machine

/-- An Authentication Start record (42_authen_codec.md R143). -/
structure StartRecord where
  /-- action, `AS_ACTION`. -/
  action : Byte
  /-- privLvl, `PRIV_LVL`. -/
  privLvl : Byte
  /-- authenType, `AUTHEN_TYPE`. -/
  authenType : Byte
  /-- authenService, `AUTHEN_SVC`. -/
  authenSvc : Byte
  /-- user, `USER`. -/
  user : Bytes
  /-- port, `PORT`. -/
  port : Bytes
  /-- remAddr, `REMADDR`. -/
  remAddr : Bytes
  /-- content, `CONTENT`. -/
  content : Bytes
  deriving DecidableEq, Repr

/-- The Start record in the registers and buffers (42_authen_codec.md R143). -/
def State.startRecord (s : State) : StartRecord where
  action := s.regs.asAction
  privLvl := s.regs.privLvl
  authenType := s.regs.authenType
  authenSvc := s.regs.authenSvc
  user := s.mem.user
  port := s.mem.port
  remAddr := s.mem.remAddr
  content := s.mem.content

/-- The registers and buffers written with a Start record, and no others (42_authen_codec.md R145). -/
def State.putStart (s : State) (r : StartRecord) : State :=
  { s with
    regs := { s.regs with
      asAction := r.action
      privLvl := r.privLvl
      authenType := r.authenType
      authenSvc := r.authenSvc }
    mem := { s.mem with
      user := r.user
      port := r.port
      remAddr := r.remAddr
      content := r.content } }

/-- The enumerated fields of a Start in wire order (42_authen_codec.md R144, R145). -/
def startChecks (p : Params) (r : StartRecord) : List Check :=
  [fieldCheck (validAction p r.action) r.action.toNat 5,
   fieldCheck (validPrivLvl r.privLvl) r.privLvl.toNat 6,
   fieldCheck (validAuthenType p r.authenType) r.authenType.toNat 7,
   fieldCheck (validAuthenService p r.authenSvc) r.authenSvc.toNat 8]

/-- The Start body: four scalars, four length bytes, four fields (42_authen_codec.md R143, R144). -/
def packStart (r : StartRecord) : Bytes :=
  [r.action, r.privLvl, r.authenType, r.authenSvc, len8 r.user, len8 r.port, len8 r.remAddr, len8 r.content]
    ++ r.user ++ r.port ++ r.remAddr ++ r.content

/-- `need`, the bytes a Start body calls for (42_authen_codec.md R145). -/
def startNeed (b : Bytes) : Nat :=
  8 + (byteAt b 4).toNat + (byteAt b 5).toNat + (byteAt b 6).toNat + (byteAt b 7).toNat

/-- The Start record a body holds (42_authen_codec.md R145). -/
def unpackStart (b : Bytes) : StartRecord :=
  let ul := (byteAt b 4).toNat
  let pl := (byteAt b 5).toNat
  let rl := (byteAt b 6).toNat
  let cl := (byteAt b 7).toNat
  { action := byteAt b 0
    privLvl := byteAt b 1
    authenType := byteAt b 2
    authenSvc := byteAt b 3
    user := memRead b 8 ul
    port := memRead b (8 + ul) pl
    remAddr := memRead b (8 + ul + pl) rl
    content := memRead b (8 + ul + pl + rl) cl }

/-- `AS_ENC` (42_authen_codec.md R144). -/
def execAsEnc (s : State) : Host.Outcome State Fault Refusal :=
  .next (s.settle (startChecks s.params s.startRecord) (s.writeBuf .body (packStart s.startRecord)))

/-- The Start parser: checks of 42_authen_codec.md R142 with `MIN = 8`, then the record's writes (R145). -/
def State.parseStart (s : State) : State :=
  let b := s.mem.body
  s.settle
    (sizeCheck 8 b.length ::
      (startChecks s.params (unpackStart b) ++ cursorChecks (startNeed b) b.length s.regs.hLen.toNat))
    (s.putStart (unpackStart b))

/-- `AS_DEC` (42_authen_codec.md R145). -/
def execAsDec (s : State) : Host.Outcome State Fault Refusal := .next s.parseStart

/-- An Authentication Reply record (42_authen_codec.md R146). -/
structure ReplyRecord where
  /-- status, `AR_STATUS`. -/
  status : Byte
  /-- flags, `AR_FLAGS`. -/
  flags : Byte
  /-- message, `MSG`. -/
  msg : Bytes
  /-- content, `DATA`. -/
  data : Bytes
  deriving DecidableEq, Repr

/-- The Reply record in the registers and buffers (42_authen_codec.md R146). -/
def State.replyRecord (s : State) : ReplyRecord where
  status := s.regs.arStatus
  flags := s.regs.arFlags
  msg := s.mem.msg
  data := s.mem.data

/-- The registers and buffers written with a Reply record, and no others (42_authen_codec.md R148). -/
def State.putReply (s : State) (r : ReplyRecord) : State :=
  { s with
    regs := { s.regs with arStatus := r.status, arFlags := r.flags }
    mem := { s.mem with msg := r.msg, data := r.data } }

/-- The enumerated fields of a Reply in wire order (42_authen_codec.md R147, R148). -/
def replyChecks (p : Params) (r : ReplyRecord) : List Check :=
  [fieldCheck (validAuthenStatus p r.status) r.status.toNat 9,
   fieldCheck (validReplyFlag p r.flags) r.flags.toNat 10]

/-- The Reply body (42_authen_codec.md R146, R147). -/
def packReply (r : ReplyRecord) : Bytes :=
  [r.status, r.flags] ++ be16 (len16 r.msg) ++ be16 (len16 r.data) ++ r.msg ++ r.data

/-- `need`, the bytes a Reply body calls for (42_authen_codec.md R148). -/
def replyNeed (b : Bytes) : Nat := 6 + (unbe16 b 2).toNat + (unbe16 b 4).toNat

/-- The Reply record a body holds (42_authen_codec.md R148). -/
def unpackReply (b : Bytes) : ReplyRecord :=
  let ml := (unbe16 b 2).toNat
  let dl := (unbe16 b 4).toNat
  { status := byteAt b 0
    flags := byteAt b 1
    msg := memRead b 6 ml
    data := memRead b (6 + ml) dl }

/-- `AR_ENC` (42_authen_codec.md R147). -/
def execArEnc (s : State) : Host.Outcome State Fault Refusal :=
  .next (s.settle (replyChecks s.params s.replyRecord) (s.writeBuf .body (packReply s.replyRecord)))

/-- The Reply parser: checks of 42_authen_codec.md R142 with `MIN = 6`, then the record's writes (R148). -/
def State.parseReply (s : State) : State :=
  let b := s.mem.body
  s.settle
    (sizeCheck 6 b.length ::
      (replyChecks s.params (unpackReply b) ++ cursorChecks (replyNeed b) b.length s.regs.hLen.toNat))
    (s.putReply (unpackReply b))

/-- `AR_DEC` (42_authen_codec.md R148). -/
def execArDec (s : State) : Host.Outcome State Fault Refusal := .next s.parseReply

/-- An Authentication Continue record (42_authen_codec.md R149). -/
structure ContinueRecord where
  /-- flags, `AC_FLAGS`. -/
  flags : Byte
  /-- user-message, `MSG`. -/
  msg : Bytes
  /-- data, `DATA`. -/
  data : Bytes
  deriving DecidableEq, Repr

/-- The Continue record in the registers and buffers (42_authen_codec.md R149). -/
def State.continueRecord (s : State) : ContinueRecord where
  flags := s.regs.acFlags
  msg := s.mem.msg
  data := s.mem.data

/-- The registers and buffers written with a Continue record, and no others (42_authen_codec.md R151). -/
def State.putContinue (s : State) (r : ContinueRecord) : State :=
  { s with
    regs := { s.regs with acFlags := r.flags }
    mem := { s.mem with msg := r.msg, data := r.data } }

/-- The enumerated field of a Continue (42_authen_codec.md R150, R151). -/
def continueChecks (p : Params) (r : ContinueRecord) : List Check :=
  [fieldCheck (validContinueFlag p r.flags) r.flags.toNat 11]

/-- The Continue body (42_authen_codec.md R149, R150). -/
def packContinue (r : ContinueRecord) : Bytes :=
  be16 (len16 r.msg) ++ be16 (len16 r.data) ++ [r.flags] ++ r.msg ++ r.data

/-- `need`, the bytes a Continue body calls for (42_authen_codec.md R151). -/
def continueNeed (b : Bytes) : Nat := 5 + (unbe16 b 0).toNat + (unbe16 b 2).toNat

/-- The Continue record a body holds (42_authen_codec.md R151). -/
def unpackContinue (b : Bytes) : ContinueRecord :=
  let ul := (unbe16 b 0).toNat
  let dl := (unbe16 b 2).toNat
  { flags := byteAt b 4
    msg := memRead b 5 ul
    data := memRead b (5 + ul) dl }

/-- `AC_ENC` (42_authen_codec.md R150). -/
def execAcEnc (s : State) : Host.Outcome State Fault Refusal :=
  .next (s.settle (continueChecks s.params s.continueRecord) (s.writeBuf .body (packContinue s.continueRecord)))

/-- The Continue parser: checks of 42_authen_codec.md R142 with `MIN = 5`, then the record's writes (R151). -/
def State.parseContinue (s : State) : State :=
  let b := s.mem.body
  s.settle
    (sizeCheck 5 b.length ::
      (continueChecks s.params (unpackContinue b) ++ cursorChecks (continueNeed b) b.length s.regs.hLen.toNat))
    (s.putContinue (unpackContinue b))

/-- `AC_DEC` (42_authen_codec.md R151). -/
def execAcDec (s : State) : Host.Outcome State Fault Refusal := .next s.parseContinue

end Sys2Proof.Machine
end

