-- ==== Sys2Proof/Machine/Author.lean ====
section
/-! DEFINITION. The Authorization body codec (43_author_codec.md): ZQ_ENC, and ZR_DEC behind HAS_AUTHOR_REPLY. -/

namespace Sys2Proof.Machine

/-- An Authorization Request record (43_author_codec.md R181); the arguments in declaration order (10_state.md R30). -/
structure RequestRecord where
  /-- authenMethod, `ZQ_METHOD`. -/
  method : Byte
  /-- privLvl, `PRIV_LVL`. -/
  privLvl : Byte
  /-- authenType, `AUTHEN_TYPE`. -/
  authenType : Byte
  /-- authenService, `AUTHEN_SVC`. -/
  authenSvc : Byte
  /-- user, `USER`. -/
  user : Bytes
  /-- port, `PORT`. -/
  port : Bytes
  /-- remAddr, `REMADDR`. -/
  remAddr : Bytes
  /-- argument count, `ARG_CNT`. -/
  argCnt : Byte
  /-- argument values, `ARG[0]` to `ARG[ARG_CNT-1]`. -/
  args : List Bytes
  deriving DecidableEq, Repr

/-- The arguments in use, `ARG[0]` to `ARG[ARG_CNT-1]`; buffers from index `ARG_CNT` up are ignored (10_state.md R30). -/
def State.argsInUse (s : State) : List Bytes := s.mem.args.toList.take s.regs.argCnt.toNat

/-- The Request record in the registers and buffers (43_author_codec.md R181). -/
def State.requestRecord (s : State) : RequestRecord where
  method := s.regs.zqMethod
  privLvl := s.regs.privLvl
  authenType := s.regs.authenType
  authenSvc := s.regs.authenSvc
  user := s.mem.user
  port := s.mem.port
  remAddr := s.mem.remAddr
  argCnt := s.regs.argCnt
  args := s.argsInUse

/-- The enumerated fields of a Request in wire order (43_author_codec.md R182). -/
def requestChecks (p : Params) (r : RequestRecord) : List Check :=
  [fieldCheck (validAuthorMethod p r.method) r.method.toNat 12,
   fieldCheck (validPrivLvl r.privLvl) r.privLvl.toNat 6,
   fieldCheck (validAuthenType p r.authenType) r.authenType.toNat 7,
   fieldCheck (validAuthenService p r.authenSvc) r.authenSvc.toNat 8]

/-- The Request body: scalars, three lengths, the count, the length table, the fields, the argument values (43_author_codec.md R181,
R182). -/
def packRequest (r : RequestRecord) : Bytes :=
  [r.method, r.privLvl, r.authenType, r.authenSvc, len8 r.user, len8 r.port, len8 r.remAddr, r.argCnt]
    ++ r.args.map len8 ++ r.user ++ r.port ++ r.remAddr ++ r.args.flatten

/-- `ZQ_ENC` (43_author_codec.md R182). -/
def execZqEnc (s : State) : Host.Outcome State Fault Refusal :=
  .next (s.settle (requestChecks s.params s.requestRecord) (s.writeBuf .body (packRequest s.requestRecord)))

/-- An Authorization Reply record (43_author_codec.md R184). -/
structure AuthorReplyRecord where
  /-- status, `ZR_STATUS`. -/
  status : Byte
  /-- argument count, `ARG_CNT`. -/
  argCnt : Byte
  /-- message, `MSG`. -/
  msg : Bytes
  /-- data, `DATA`. -/
  data : Bytes
  /-- argument values, `ARG[0]` to `ARG[ARG_CNT-1]`. -/
  args : List Bytes
  deriving DecidableEq, Repr

/-- The registers and buffers written with an Authorization Reply record; argument buffers from its count up keep their content
(43_author_codec.md R185). -/
def State.putAuthorReply (s : State) (r : AuthorReplyRecord) : State :=
  { s with
    regs := { s.regs with zrStatus := r.status, argCnt := r.argCnt }
    mem := { s.mem with msg := r.msg, data := r.data, args := writeArgs s.mem.args 0 r.args } }

/-- The length table `al[0]` to `al[n-1]` of an Authorization Reply body (43_author_codec.md R184, R185). -/
def authorReplyTable (b : Bytes) : List Nat := (memRead b 2 (byteAt b 1).toNat).map (·.toNat)

/-- `need`, the bytes an Authorization Reply body calls for (43_author_codec.md R185). -/
def authorReplyNeed (b : Bytes) : Nat :=
  let n := (byteAt b 1).toNat
  6 + n + (unbe16 b (2 + n)).toNat + (unbe16 b (4 + n)).toNat + (authorReplyTable b).sum

/-- Cuts a byte sequence into pieces of the listed lengths, one directly after the other (43_author_codec.md R185). -/
def cutBytes : List Nat → Bytes → List Bytes
  | [], _ => []
  | l :: ls, bs => bs.take l :: cutBytes ls (bs.drop l)

/-- The Authorization Reply record a body holds (43_author_codec.md R185). -/
def unpackAuthorReply (b : Bytes) : AuthorReplyRecord :=
  let n := (byteAt b 1).toNat
  let ml := (unbe16 b (2 + n)).toNat
  let dl := (unbe16 b (4 + n)).toNat
  { status := byteAt b 0
    argCnt := byteAt b 1
    msg := memRead b (6 + n) ml
    data := memRead b (6 + n + ml) dl
    args := cutBytes (authorReplyTable b) (b.drop (6 + n + ml + dl)) }

/-- `HAS_AUTHOR_REPLY` false raises `UnsupportedType(2, H_SEQ, 0)` "before anything else" (43_author_codec.md R185, 90_conflicts.md
C15). -/
def authorReplyGate (p : Params) (seq : Byte) : Check :=
  (!p.hasAuthorReply, ⟨.unsupportedType, 2, seq.toNat, 0⟩)

/-- The Authorization Reply parser (43_author_codec.md R185). -/
def State.parseAuthorReply (s : State) : State :=
  let b := s.mem.body
  let r := unpackAuthorReply b
  s.settle
    ([authorReplyGate s.params s.regs.hSeq,
      sizeCheck 6 b.length,
      fieldCheck (validAuthorStatus s.params r.status) r.status.toNat 13,
      sizeCheck (6 + r.argCnt.toNat) b.length] ++
      cursorChecks (authorReplyNeed b) b.length s.regs.hLen.toNat)
    (s.putAuthorReply r)

/-- `ZR_DEC` (43_author_codec.md R185). -/
def execZrDec (s : State) : Host.Outcome State Fault Refusal := .next s.parseAuthorReply

end Sys2Proof.Machine
end

