-- ==== Sys2Proof/Machine/Header.lean ====
section
/-! DEFINITION. The header codec (40_header_codec.md): the 12-byte layout, its validation, HDR_ENC and HDR_DEC. -/

namespace Sys2Proof.Machine

/-- The seven header fields (10_state.md R23, 40_header_codec.md R90). -/
structure Header where
  /-- Major version. -/
  major : BitVec 4
  /-- Minor version. -/
  minor : BitVec 4
  /-- Packet type. -/
  ptype : Byte
  /-- Sequence number. -/
  seq : Byte
  /-- Flags. -/
  flags : Byte
  /-- Session id. -/
  sid : Word
  /-- Body length. -/
  len : Word
  deriving DecidableEq, Repr

/-- "The header" held in the header registers (10_state.md R23). -/
def Regs.header (x : Regs) : Header where
  major := x.hMajor
  minor := x.hMinor
  ptype := x.hType
  seq := x.hSeq
  flags := x.hFlags
  sid := x.hSid
  len := x.hLen

/-- The header registers written with a header; `H_DERIVED` follows `H_FLAGS` (40_header_codec.md R97). -/
def Regs.setHeader (x : Regs) (h : Header) : Regs :=
  { x with
    hMajor := h.major
    hMinor := h.minor
    hType := h.ptype
    hSeq := h.seq
    hFlags := h.flags
    hSid := h.sid
    hLen := h.len }

/-- The version byte `16*maj + min`: high nibble major, low nibble minor (40_header_codec.md R92). -/
def versionByte (major minor : BitVec 4) : Byte := major ++ minor

/-- `hdr_pack` (40_header_codec.md R91). -/
def hdrPack (h : Header) : Bytes :=
  [versionByte h.major h.minor, h.ptype, h.seq, h.flags] ++ be32 h.sid ++ be32 h.len

/-- `hdr_unpack` of the first 12 bytes (40_header_codec.md R93). -/
def hdrUnpack (bs : Bytes) : Header where
  major := (byteAt bs 0).extractLsb' 4 4
  minor := (byteAt bs 0).extractLsb' 0 4
  ptype := byteAt bs 1
  seq := byteAt bs 2
  flags := byteAt bs 3
  sid := unbe32 bs 4
  len := unbe32 bs 8

/-- `hdr_check`: major version, minor version, type, flags, in this order (40_header_codec.md R94). -/
def hdrChecks (p : Params) (h : Header) : List Check :=
  [fieldCheck (validMajor p h.major) h.major.toNat 1,
   fieldCheck (validMinor p h.minor) h.minor.toNat 2,
   fieldCheck (validType h.ptype) h.ptype.toNat 3,
   fieldCheck (validFlags h.flags) h.flags.toNat 4]

/-- `HDR_ENC` (40_header_codec.md R95). -/
def execHdrEnc (s : State) : Host.Outcome State Fault Refusal :=
  .next (s.settle (hdrChecks s.params s.regs.header) (s.writeBuf .hbuf (hdrPack s.regs.header)))

/-- The size test of header decode: any length but 12 raises `InvalidSize(12, HBUF_LEN, 0)` (40_header_codec.md R96). -/
def hdrSizeCheck (n : Nat) : Check := (n != 12, ⟨.invalidSize, 12, n, 0⟩)

/-- `HDR_DEC` (40_header_codec.md R97). -/
def execHdrDec (s : State) : Host.Outcome State Fault Refusal :=
  let h := hdrUnpack s.mem.hbuf
  .next (s.settle (hdrSizeCheck s.mem.hbuf.length :: hdrChecks s.params h) { s with regs := s.regs.setHeader h })

end Sys2Proof.Machine
end

