-- ==== Sys2Proof/Machine/Md5.lean ====
section
/-! DEFINITION. The hash of the body cipher, MD5 (41_body_cipher.md R120 to R127; from general knowledge in the spec itself,
log entry 9). -/

namespace Sys2Proof.Machine

/-- `le32`: least significant byte first (41_body_cipher.md R127). -/
def le32 (w : Word) : Bytes :=
  [w.extractLsb' 0 8, w.extractLsb' 8 8, w.extractLsb' 16 8, w.extractLsb' 24 8]

/-- `le64(v mod 2^64)`: least significant byte first (41_body_cipher.md R121). -/
def le64 (v : Nat) : Bytes := le32 (BitVec.ofNat 32 v) ++ le32 (BitVec.ofNat 32 (v / 2 ^ 32))

/-- The least `z` with `len + 1 + z ≡ 56 (mod 64)` (41_body_cipher.md R121). -/
def md5ZeroCount (len : Nat) : Nat := (119 - len % 64) % 64

/-- The padded message (41_body_cipher.md R121). -/
def md5Pad (m : Bytes) : Bytes :=
  m ++ [0x80] ++ List.replicate (md5ZeroCount m.length) 0 ++ le64 (8 * m.length)

/-- The first `n` blocks of 64 bytes (41_body_cipher.md R122). -/
def md5Blocks : Nat → Bytes → List Bytes
  | 0, _ => []
  | n + 1, bs => bs.take 64 :: md5Blocks n (bs.drop 64)

/-- `M[j]`, read little-endian from bytes `4j .. 4j+3` of a block (41_body_cipher.md R122). -/
def md5Word (blk : Bytes) (j : Nat) : Word :=
  byteAt blk (4 * j + 3) ++ byteAt blk (4 * j + 2) ++ byteAt blk (4 * j + 1) ++ byteAt blk (4 * j)

/-- The four words of the hash state (41_body_cipher.md R123, R126). -/
structure Md5State where
  /-- `a0` or `A`. -/
  a : Word
  /-- `b0` or `B`. -/
  b : Word
  /-- `c0` or `C`. -/
  c : Word
  /-- `d0` or `D`. -/
  d : Word
  deriving DecidableEq, Repr

/-- The initial state (41_body_cipher.md R123). -/
def md5Init : Md5State where
  a := 0x67452301
  b := 0xEFCDAB89
  c := 0x98BADCFE
  d := 0x10325476

/-- The shift amounts `S[0..15]`, `S[16..31]`, `S[32..47]`, `S[48..63]` (41_body_cipher.md R124). -/
def md5Shifts : List Nat :=
  [7, 12, 17, 22, 7, 12, 17, 22, 7, 12, 17, 22, 7, 12, 17, 22] ++
  [5, 9, 14, 20, 5, 9, 14, 20, 5, 9, 14, 20, 5, 9, 14, 20] ++
  [4, 11, 16, 23, 4, 11, 16, 23, 4, 11, 16, 23, 4, 11, 16, 23] ++
  [6, 10, 15, 21, 6, 10, 15, 21, 6, 10, 15, 21, 6, 10, 15, 21]

/-- The constants `K[0]` to `K[63]` (41_body_cipher.md R125). -/
def md5Consts : List Word :=
  [0xD76AA478, 0xE8C7B756, 0x242070DB, 0xC1BDCEEE, 0xF57C0FAF, 0x4787C62A, 0xA8304613, 0xFD469501,
   0x698098D8, 0x8B44F7AF, 0xFFFF5BB1, 0x895CD7BE, 0x6B901122, 0xFD987193, 0xA679438E, 0x49B40821] ++
  [0xF61E2562, 0xC040B340, 0x265E5A51, 0xE9B6C7AA, 0xD62F105D, 0x02441453, 0xD8A1E681, 0xE7D3FBC8,
   0x21E1CDE6, 0xC33707D6, 0xF4D50D87, 0x455A14ED, 0xA9E3E905, 0xFCEFA3F8, 0x676F02D9, 0x8D2A4C8A] ++
  [0xFFFA3942, 0x8771F681, 0x6D9D6122, 0xFDE5380C, 0xA4BEEA44, 0x4BDECFA9, 0xF6BB4B60, 0xBEBFBC70,
   0x289B7EC6, 0xEAA127FA, 0xD4EF3085, 0x04881D05, 0xD9D4D039, 0xE6DB99E5, 0x1FA27CF8, 0xC4AC5665] ++
  [0xF4292244, 0x432AFF97, 0xAB9423A7, 0xFC93A039, 0x655B59C3, 0x8F0CCC92, 0xFFEFF47D, 0x85845DD1,
   0x6FA87E4F, 0xFE2CE6E0, 0xA3014314, 0x4E0811A1, 0xF7537E82, 0xBD3AF235, 0x2AD7D2BB, 0xEB86D391]

/-- The round function `F` of step `i` (41_body_cipher.md R126). -/
def md5Mix (i : Nat) (b c d : Word) : Word :=
  if i ≤ 15 then (b &&& c) ||| (~~~b &&& d)
  else if i ≤ 31 then (d &&& b) ||| (~~~d &&& c)
  else if i ≤ 47 then b ^^^ c ^^^ d
  else c ^^^ (b ||| ~~~d)

/-- The word index `g` of step `i` (41_body_cipher.md R126). -/
def md5Index (i : Nat) : Nat :=
  if i ≤ 15 then i
  else if i ≤ 31 then (5 * i + 1) % 16
  else if i ≤ 47 then (3 * i + 5) % 16
  else 7 * i % 16

/-- Step `i` of the compression of a block (41_body_cipher.md R126). -/
def md5Step (blk : Bytes) (x : Md5State) (i : Nat) : Md5State :=
  let f := md5Mix i x.b x.c x.d + x.a + md5Consts.getD i 0 + md5Word blk (md5Index i)
  { a := x.d, b := x.b + f.rotateLeft (md5Shifts.getD i 0), c := x.b, d := x.c }

/-- The compression of one block (41_body_cipher.md R126). -/
def md5Compress (x : Md5State) (blk : Bytes) : Md5State :=
  let y := (List.range 64).foldl (md5Step blk) x
  { a := x.a + y.a, b := x.b + y.b, c := x.c + y.c, d := x.d + y.d }

/-- The output of a hash state (41_body_cipher.md R127). -/
def md5Output (x : Md5State) : Bytes := le32 x.a ++ le32 x.b ++ le32 x.c ++ le32 x.d

/-- `MD5(m)` (41_body_cipher.md R120, R126, R127). -/
def md5 (m : Bytes) : Bytes :=
  let padded := md5Pad m
  md5Output ((md5Blocks (padded.length / 64) padded).foldl md5Compress md5Init)

end Sys2Proof.Machine
end

