-- ==== Sys2Proof/Machine/Cipher.lean ====
section
/-! DEFINITION. The body cipher (41_body_cipher.md R110 to R118) and CIPHER. Nothing of a keystream outlives the command
(10_state.md R33). -/

namespace Sys2Proof.Machine

/-- `HASH` is MD5 (00_scope.md R5, 41_body_cipher.md R111). -/
def hash (m : Bytes) : Bytes := md5 m

/-- The seed: `be32(sid) ∥ secret ∥ [vb] ∥ [seq]` (41_body_cipher.md R111). -/
def cipherSeed (sid : Word) (secret : Bytes) (vb seq : Byte) : Bytes := be32 sid ++ secret ++ [vb, seq]

/-- `m` pads from a first pad on: each later one is the hash of the previous pad alone (41_body_cipher.md R111, 90_conflicts.md
C12). -/
def padChain : Nat → Bytes → Bytes
  | 0, _ => []
  | m + 1, pad => pad ++ padChain m (hash pad)

/-- The keystream of `n` bytes: `ceil(n / 16)` pads cut to `n` bytes; none, and no hash, for `n = 0` (41_body_cipher.md R111). -/
def keystream (sid : Word) (secret : Bytes) (vb seq : Byte) (n : Nat) : Bytes :=
  (padChain ((n + 15) / 16) (hash (cipherSeed sid secret vb seq))).take n

/-- "Ciphertext/plaintext = body XOR keystream" (41_body_cipher.md R113). -/
def xorBytes (body ks : Bytes) : Bytes := List.zipWith (fun x k => x ^^^ k) body ks

/-- The null secret with the Unencrypted flag clear raises `ConfigError(0, 0, 0)` (41_body_cipher.md R113, R115). -/
def configCheck (flags : Byte) (present : BitVec 1) : Check :=
  (!flagUnencrypted flags && present == 0, ⟨.configError, 0, 0, 0⟩)

/-- The value of `cipher` where it raises nothing: the body itself with the Unencrypted flag set (41_body_cipher.md R113, R114), else the
body XOR the keystream of its length, keyed by a header (R113). -/
def cipherBody (h : Header) (secret body : Bytes) : Bytes :=
  if flagUnencrypted h.flags then body
  else xorBytes body (keystream h.sid secret (versionByte h.major h.minor) h.seq body.length)

/-- `CIPHER` (41_body_cipher.md R112). -/
def execCipher (s : State) : Host.Outcome State Fault Refusal :=
  .next (s.settle [configCheck s.regs.hFlags s.regs.secretPresent]
    (s.writeBuf .body (cipherBody s.regs.header s.mem.secret s.mem.body)))

end Sys2Proof.Machine
end

