-- ==== Sys2Proof/Machine/Packet.lean ====
section
/-! DEFINITION. Packet assembly, disassembly and body dispatch (44_packet_ops.md): PKT_ASM, PKT_DIS, BODY_DEC. -/

namespace Sys2Proof.Machine

/-- The header `PKT_ASM` packs: the header registers with `length = BODY_LEN` (44_packet_ops.md R201). -/
def State.outHeader (s : State) : Header := { s.regs.header with len := BitVec.ofNat 32 s.mem.body.length }

/-- `PKT_ASM` (44_packet_ops.md R201). -/
def execPktAsm (s : State) : Host.Outcome State Fault Refusal :=
  let h := s.outHeader
  .next (s.settle
    (hdrChecks s.params s.regs.header ++ [configCheck s.regs.hFlags s.regs.secretPresent])
    { s with
      regs := { s.regs with hLen := h.len }
      mem := s.mem.write .wire (hdrPack h ++ cipherBody h s.mem.secret s.mem.body) })

/-- `PKT_DIS`, keyed from the header just unpacked from `WIRE` (44_packet_ops.md R202). -/
def execPktDis (s : State) : Host.Outcome State Fault Refusal :=
  let w := s.mem.wire
  let h := hdrUnpack w
  .next (s.settle
    (sizeCheck 12 w.length ::
      (hdrChecks s.params h ++
        [lengthCheck h.len.toNat (w.length - 12), configCheck h.flags s.regs.secretPresent]))
    { s with
      regs := s.regs.setHeader h
      mem := s.mem.write .body (cipherBody h s.mem.secret (memRead w 12 h.len.toNat)) })

/-- A row of the dispatch table: the parser it selects, or the error it raises (44_packet_ops.md R203). -/
inductive BodyRoute where
  | start
  | reply
  | cont
  | authorReply
  | refuse (e : CmdError)
  deriving DecidableEq, Repr

/-- The dispatch table (44_packet_ops.md R203): type, then sequence number. -/
def bodyRoute (ptype seq : Byte) : BodyRoute :=
  if ptype = 1 then
    if seq = 1 then .start
    else if seq = 0 ∨ seq = 255 then .refuse ⟨.unsupportedType, 1, seq.toNat, 0⟩
    else if seq.toNat % 2 = 0 then .reply
    else .cont
  else if ptype = 2 then
    if seq = 2 then .authorReply else .refuse ⟨.unsupportedType, 2, seq.toNat, 0⟩
  else if ptype = 3 then .refuse ⟨.unsupportedType, 3, seq.toNat, 0⟩
  else .refuse ⟨.invalidField, ptype.toNat, 0, 3⟩

/-- What a row of the dispatch table does (44_packet_ops.md R204). -/
def State.parseBody (s : State) : BodyRoute → State
  | .start => s.parseStart
  | .reply => s.parseReply
  | .cont => s.parseContinue
  | .authorReply => s.parseAuthorReply
  | .refuse e => s.enterError e

/-- `BODY_DEC` (44_packet_ops.md R204). -/
def execBodyDec (s : State) : Host.Outcome State Fault Refusal :=
  .next (s.parseBody (bodyRoute s.regs.hType s.regs.hSeq))

end Sys2Proof.Machine
end

