-- ==== Sys2Proof/Machine/System.lean ====
section
/-! DEFINITION. The system commands NOP, CLRF and SRST (45_system_ops.md R220 to R223). -/

namespace Sys2Proof.Machine

/-- `NOP` (45_system_ops.md R221): nothing, and the status of every successful command. -/
def execNop (s : State) : Host.Outcome State Fault Refusal := .next (s.settle [] s)

/-- The state with the fault latch cleared: `STATUS.FLT <- 0` (45_system_ops.md R222). -/
def State.clearFault (s : State) : State :=
  { s with regs := { s.regs with status := statusWord (statusErr s.regs.status) false } }

/-- `CLRF` (45_system_ops.md R222). -/
def execClrf (s : State) : Host.Outcome State Fault Refusal := .next (s.settle [] s.clearFault)

/-- `SRST` (45_system_ops.md R223). -/
def execSrst (s : State) : Host.Outcome State Fault Refusal := .next (s.settle [] s.resetBlock)

end Sys2Proof.Machine
end

