-- ==== Sys2Proof/Machine/Dispatch.lean ====
section
/-! DEFINITION. One arm per command, each a direct call of its meaning. -/

namespace Sys2Proof.Machine

/-- What a command does (30_encoding.md R72). -/
def exec (i : Instr) (s : State) : Host.Outcome State Fault Refusal :=
  match i with
  | .nop => Sys2Proof.Machine.execNop s
  | .clrf => Sys2Proof.Machine.execClrf s
  | .srst => Sys2Proof.Machine.execSrst s
  | .hdrEnc => Sys2Proof.Machine.execHdrEnc s
  | .hdrDec => Sys2Proof.Machine.execHdrDec s
  | .cipher => Sys2Proof.Machine.execCipher s
  | .asEnc => Sys2Proof.Machine.execAsEnc s
  | .asDec => Sys2Proof.Machine.execAsDec s
  | .arEnc => Sys2Proof.Machine.execArEnc s
  | .arDec => Sys2Proof.Machine.execArDec s
  | .acEnc => Sys2Proof.Machine.execAcEnc s
  | .acDec => Sys2Proof.Machine.execAcDec s
  | .zqEnc => Sys2Proof.Machine.execZqEnc s
  | .zrDec => Sys2Proof.Machine.execZrDec s
  | .pktAsm => Sys2Proof.Machine.execPktAsm s
  | .pktDis => Sys2Proof.Machine.execPktDis s
  | .bodyDec => Sys2Proof.Machine.execBodyDec s

end Sys2Proof.Machine
end

