-- ==== Sys2Proof/Machine/HostPort.lean ====
section
/-! DEFINITION. The host's side of the block: what one transaction does (20_memory.md R52 to R56), what a write to CMD does
(R53), a hardware reset (70_reset_and_hazards.md R260), and the script statements that expand to transactions (30_encoding.md
R76, R77). -/

namespace Sys2Proof.Machine

/-- `RegWrite(0x00, op)` (20_memory.md R53): a legal opcode executes its command; any other raises `IllegalCommand(op, 0, 0)` and
changes nothing but the status registers (30_encoding.md R73, 60_exceptions.md R235). -/
def runCommand (op : Byte) (s : State) : Host.Outcome State Fault Refusal :=
  match decode op with
  | .ok i => exec i s
  | .error _ => .next (s.raise .illegalCommand op.toNat 0 0)

/-- `RegWrite(n, v)` (20_memory.md R52, R53). -/
def runRegWrite : (r : Reg) → BitVec r.width → State → Host.Outcome State Fault Refusal
  | .cmd, op, s => runCommand op s
  | r, v, s => .next { s with regs := s.regs.write r v }

/-- `BufLoad(id, bytes)` (20_memory.md R55); more bytes than the cap "is not a transaction of the interface". -/
def runBufLoad (b : Buf) (bytes : Bytes) (s : State) : Host.Outcome State Fault Refusal :=
  if bytes.length ≤ b.cap then .next (s.writeBuf b bytes) else .refused (.loadTooLong b bytes.length)

/-- `BufReadByte(id, off)` (20_memory.md R55). -/
def runBufReadByte (b : Buf) (off : Nat) (s : State) : Host.Outcome State Fault Refusal :=
  match s.mem.readByte b off with
  | some v => .next { s with answer := some (.byte v) }
  | none => .fault (.noSuchByte b off)

/-- One transaction, as one atomic step (20_memory.md R60). A read changes nothing of the block (R54). -/
def runTxn (t : HostTxn) (s : State) : Host.Outcome State Fault Refusal :=
  match t with
  | .regWrite r v => runRegWrite r v s
  | .regRead r => .next { s with answer := some (.reg r (s.regs.read r)) }
  | .lenRead b => .next { s with answer := some (.len (s.mem.read b).length) }
  | .bufLoad b bytes => runBufLoad b bytes s
  | .bufRead b => .next { s with answer := some (.bytes (s.mem.read b)) }
  | .bufReadByte b off => runBufReadByte b off s
  | .hardReset => .next s.resetBlock

/-- The host issues its next transaction (20_memory.md R61); with none pending the block waits (70_reset_and_hazards.md R260). -/
def advance (s : State) : Host.Outcome State Fault Refusal :=
  match s.pending with
  | [] => .next s
  | t :: rest => runTxn t { s with pending := rest, answer := none }

/-- The state in which the host writes `op` to `CMD` next. -/
def State.withCommand (s : State) (op : Byte) : State :=
  { s with pending := .regWrite .cmd op :: s.pending }

/-- The statement `MNEMONIC`: `RegWrite(0x00, op)` (30_encoding.md R76). -/
def scriptCommand (i : Instr) : HostTxn := .regWrite .cmd (encode i)

/-- The pseudo-statement `hdr` (30_encoding.md R77). -/
def scriptHdr (h : Header) : List HostTxn :=
  [.regWrite .hMajor h.major, .regWrite .hMinor h.minor, .regWrite .hType h.ptype, .regWrite .hSeq h.seq,
   .regWrite .hFlags h.flags, .regWrite .hSid h.sid, .regWrite .hLen h.len]

/-- The pseudo-statement `secret` (30_encoding.md R77). -/
def scriptSecret (bytes : Bytes) : List HostTxn := [.bufLoad .secret bytes, .regWrite .secretPresent 1]

/-- The pseudo-statement `nosecret` (30_encoding.md R77). -/
def scriptNoSecret : List HostTxn := [.bufLoad .secret [], .regWrite .secretPresent 0]

/-- The pseudo-statement `arg` (30_encoding.md R77). -/
def scriptArg (i : Fin 255) (bytes : Bytes) : List HostTxn := [.bufLoad (.arg i) bytes]

end Sys2Proof.Machine
end

