-- ==== Sys2Proof/Safety.lean ====
section
/-! DEFINITION. The terms claims use: the invariant of the block's state, the spec's tables of what a command reads, writes and
can end in, the wire layouts written as bytes, and each rule's order of checks written as one chain. None of it is used by the
machine. -/

namespace Sys2Proof.Machine

/-- The codes the block writes to `STATUS.ERR`: 0, and those of the kinds it raises (60_exceptions.md R231, R245). -/
def blockCodes : List (BitVec 4) := [0, 1, 2, 3, 4, 7, 8]

/-- The status registers are as some command, or reset, left them: bits 31:5 of STATUS are 0 (10_state.md R25), the code is one the
block writes (60_exceptions.md R245), an error code goes with the latch (R239), no error goes with cleared information (R238), and
the field id is at most 13 (R233). -/
abbrev Regs.StatusOk (x : Regs) : Prop :=
  statusReserved x.status = 0 ∧ statusErr x.status ∈ blockCodes ∧
  (statusErr x.status ≠ 0 → statusFlt x.status = true) ∧
  (statusErr x.status = 0 → x.errA = 0 ∧ x.errB = 0 ∧ x.errF = 0) ∧
  x.errF.toNat ≤ 13

/-- The invariant of the block: every buffer within its cap (10_state.md R28), and the status registers as a command left them. -/
abbrev State.Inv (s : State) : Prop := s.mem.wf = true ∧ s.regs.StatusOk

/-- The command that led to `s` succeeded: `STATUS.ERR = 0` (60_exceptions.md R231). -/
abbrev State.Ok (s : State) : Prop := statusErr s.regs.status = 0

/-- No fault recorded: the premise a claim about a sequence of commands takes (60_exceptions.md R240). -/
abbrev State.NoFaultRecorded (s : State) : Prop := statusFlt s.regs.status = false

/-- The four registers every command writes (30_encoding.md R72). -/
def Reg.isStatus : Reg → Bool
  | .status | .errA | .errB | .errF => true
  | _ => false

/-- The seven header registers and `H_DERIVED`, which follows `H_FLAGS` (10_state.md R23, R24). -/
def Reg.isHeader : Reg → Bool
  | .hMajor | .hMinor | .hType | .hSeq | .hFlags | .hSid | .hLen | .hDerived => true
  | _ => false

/-- The registers a command may write beside the four status registers, column "writes on success" of 30_encoding.md R72. -/
def writesReg : Instr → Reg → Bool
  | .nop, _ | .clrf, _ | .hdrEnc, _ | .cipher, _ | .asEnc, _ | .arEnc, _ | .acEnc, _ | .zqEnc, _ => false
  | .srst, _ => true
  | .hdrDec, r | .pktDis, r => r.isHeader
  | .asDec, r => r == .asAction || r == .privLvl || r == .authenType || r == .authenSvc
  | .arDec, r => r == .arStatus || r == .arFlags
  | .acDec, r => r == .acFlags
  | .zrDec, r => r == .zrStatus || r == .argCnt
  | .pktAsm, r => r == .hLen
  | .bodyDec, r =>
    r == .asAction || r == .privLvl || r == .authenType || r == .authenSvc || r == .arStatus || r == .arFlags ||
      r == .acFlags || r == .zrStatus || r == .argCnt

/-- Whether a buffer is one of the 255 argument buffers. -/
def Buf.isArg : Buf → Bool
  | .arg _ => true
  | _ => false

/-- The buffers a command may write, column "writes on success" of 30_encoding.md R72 and "written by" of 10_state.md R27. -/
def writesBuf : Instr → Buf → Bool
  | .nop, _ | .clrf, _ | .hdrDec, _ => false
  | .srst, _ => true
  | .hdrEnc, b => b == .hbuf
  | .cipher, b | .asEnc, b | .arEnc, b | .acEnc, b | .zqEnc, b | .pktDis, b => b == .body
  | .asDec, b => b == .user || b == .port || b == .remAddr || b == .content
  | .arDec, b | .acDec, b => b == .msg || b == .data
  | .zrDec, b => b == .msg || b == .data || b.isArg
  | .pktAsm, b => b == .wire
  | .bodyDec, b =>
    b == .user || b == .port || b == .remAddr || b == .content || b == .msg || b == .data || b.isArg

/-- The registers a command reads, column "reads" of 30_encoding.md R72 and the operands of the command's own rule. -/
def readsReg : Instr → Reg → Bool
  | .nop, _ | .clrf, _ | .srst, _ | .hdrDec, _ => false
  | .hdrEnc, r => r.isHeader && r != .hDerived
  | .cipher, r =>
    r == .secretPresent || r == .hMajor || r == .hMinor || r == .hSeq || r == .hFlags || r == .hSid
  | .asEnc, r => r == .asAction || r == .privLvl || r == .authenType || r == .authenSvc
  | .asDec, r | .arDec, r | .acDec, r => r == .hLen
  | .arEnc, r => r == .arStatus || r == .arFlags
  | .acEnc, r => r == .acFlags
  | .zqEnc, r => r == .zqMethod || r == .privLvl || r == .authenType || r == .authenSvc || r == .argCnt
  | .zrDec, r => r == .hLen || r == .hSeq
  | .pktAsm, r =>
    r == .secretPresent || r == .hMajor || r == .hMinor || r == .hType || r == .hSeq || r == .hFlags || r == .hSid
  | .pktDis, r => r == .secretPresent
  | .bodyDec, r => r == .hType || r == .hSeq || r == .hLen

/-- The buffers a command reads when `ARG_CNT` is `argCnt`, columns "reads" of 30_encoding.md R72 and "read by" of 10_state.md R27. -/
def readsBuf : Instr → Byte → Buf → Bool
  | .nop, _, _ | .clrf, _, _ | .srst, _, _ | .hdrEnc, _, _ => false
  | .hdrDec, _, b => b == .hbuf
  | .cipher, _, b | .pktAsm, _, b => b == .body || b == .secret
  | .asEnc, _, b => b == .user || b == .port || b == .remAddr || b == .content
  | .arEnc, _, b | .acEnc, _, b => b == .msg || b == .data
  | .asDec, _, b | .arDec, _, b | .acDec, _, b | .zrDec, _, b | .bodyDec, _, b => b == .body
  | .zqEnc, _, .user | .zqEnc, _, .port | .zqEnc, _, .remAddr => true
  | .zqEnc, argCnt, .arg i => decide (i.val < argCnt.toNat)
  | .zqEnc, _, _ => false
  | .pktDis, _, b => b == .wire || b == .secret

/-- The table of 60_exceptions.md R247: which command can end in which error. `IllegalCommand` belongs to no command, and the host's
kinds are never raised (R245). -/
def canEndIn : Instr → ErrKind → Bool
  | .nop, _ | .clrf, _ | .srst, _ => false
  | .hdrEnc, k => k == .invalidField
  | .hdrDec, k => k == .invalidSize || k == .invalidField
  | .cipher, k => k == .configError
  | .asEnc, k | .arEnc, k | .acEnc, k | .zqEnc, k => k == .invalidField
  | .asDec, k | .arDec, k | .acDec, k => k == .invalidSize || k == .invalidField || k == .lengthMismatch
  | .zrDec, k | .bodyDec, k =>
    k == .invalidSize || k == .invalidField || k == .lengthMismatch || k == .unsupportedType
  | .pktAsm, k => k == .invalidField || k == .configError
  | .pktDis, k => k == .invalidSize || k == .invalidField || k == .lengthMismatch || k == .configError

/-- The opcodes 30_encoding.md R73 lists as illegal, by its ranges. -/
def illegalOpcode (n : Nat) : Bool :=
  (0x03 ≤ n && n ≤ 0x0F) || (0x12 ≤ n && n ≤ 0x1F) || (0x21 ≤ n && n ≤ 0x2F) || (0x36 ≤ n && n ≤ 0x3F) ||
    n == 0x41 || n == 0x42 || (0x44 ≤ n && n ≤ 0x4F) || (0x53 ≤ n && n ≤ 0xFF)

/-- A number below 2^16 as two bytes, most significant first (00_scope.md R10). -/
def wire16 (n : Nat) : Bytes := [BitVec.ofNat 8 (n / 2 ^ 8), BitVec.ofNat 8 n]

/-- A number below 2^32 as four bytes, most significant first (00_scope.md R10). -/
def wire32 (n : Nat) : Bytes :=
  [BitVec.ofNat 8 (n / 2 ^ 24), BitVec.ofNat 8 (n / 2 ^ 16), BitVec.ofNat 8 (n / 2 ^ 8), BitVec.ofNat 8 n]

/-- Byte `i` of a sequence as a number. -/
def num8 (b : Bytes) (i : Nat) : Nat := (b.getD i 0).toNat

/-- The big-endian number in bytes `i`, `i + 1` (00_scope.md R10: `unbe16([a,b]) = 256*a + b`). -/
def num16 (b : Bytes) (i : Nat) : Nat := 256 * num8 b i + num8 b (i + 1)

/-- The big-endian number in bytes `i` to `i + 3` (00_scope.md R10). -/
def num32 (b : Bytes) (i : Nat) : Nat :=
  2 ^ 24 * num8 b i + 2 ^ 16 * num8 b (i + 1) + 2 ^ 8 * num8 b (i + 2) + num8 b (i + 3)

/-- The version byte `16*maj + min` (40_header_codec.md R92). -/
def versionOf (major minor : BitVec 4) : Byte := BitVec.ofNat 8 (16 * major.toNat + minor.toNat)

/-- The 12 header bytes (40_header_codec.md R90, R91). -/
def headerBytes (h : Header) : Bytes :=
  [versionOf h.major h.minor, h.ptype, h.seq, h.flags] ++ wire32 h.sid.toNat ++ wire32 h.len.toNat

/-- The four header tests in their order (40_header_codec.md R94). -/
def headerVerdict (p : Params) (h : Header) : Option CmdError :=
  if validMajor p h.major = false then some ⟨.invalidField, h.major.toNat, 0, 1⟩
  else if validMinor p h.minor = false then some ⟨.invalidField, h.minor.toNat, 0, 2⟩
  else if validType h.ptype = false then some ⟨.invalidField, h.ptype.toNat, 0, 3⟩
  else if validFlags h.flags = false then some ⟨.invalidField, h.flags.toNat, 0, 4⟩
  else none

/-- The null secret with the Unencrypted flag clear (41_body_cipher.md R115). -/
def secretVerdict (flags : Byte) (present : BitVec 1) : Option CmdError :=
  if flags &&& 0x01 = 0 ∧ present = 0 then some ⟨.configError, 0, 0, 0⟩ else none

/-- The pad of number `k`: `pad(0)` is the hash of the seed, each later one the hash of the one before (41_body_cipher.md R111). -/
def padOf (sid : Word) (secret : Bytes) (vb seq : Byte) (k : Nat) : Bytes :=
  md5^[k] (md5 (wire32 sid.toNat ++ secret ++ [vb, seq]))

/-- `c` is the body `b` ciphered, or deciphered, under a header (41_body_cipher.md R113): the body itself with the Unencrypted flag set,
else byte `i` is `b[i] ^ pad(i div 16)[i mod 16]`. -/
def Ciphered (h : Header) (secret b c : Bytes) : Prop :=
  c.length = b.length ∧
  (h.flags &&& 0x01 ≠ 0 → c = b) ∧
  (h.flags &&& 0x01 = 0 → ∀ i, i < b.length →
    c.getD i 0 = b.getD i 0 ^^^ (padOf h.sid secret (versionOf h.major h.minor) h.seq (i / 16)).getD (i % 16) 0)

/-- The enumerated fields of a Start in wire order (42_authen_codec.md R144). -/
def startFieldVerdict (p : Params) (action privLvl authenType authenSvc : Byte) : Option CmdError :=
  if validAction p action = false then some ⟨.invalidField, action.toNat, 0, 5⟩
  else if 15 < privLvl.toNat then some ⟨.invalidField, privLvl.toNat, 0, 6⟩
  else if validAuthenType p authenType = false then some ⟨.invalidField, authenType.toNat, 0, 7⟩
  else if validAuthenService p authenSvc = false then some ⟨.invalidField, authenSvc.toNat, 0, 8⟩
  else none

/-- The enumerated fields of a Reply in wire order (42_authen_codec.md R147). -/
def replyFieldVerdict (p : Params) (status flags : Byte) : Option CmdError :=
  if validAuthenStatus p status = false then some ⟨.invalidField, status.toNat, 0, 9⟩
  else if validReplyFlag p flags = false then some ⟨.invalidField, flags.toNat, 0, 10⟩
  else none

/-- The enumerated field of a Continue (42_authen_codec.md R150). -/
def continueFieldVerdict (p : Params) (flags : Byte) : Option CmdError :=
  if validContinueFlag p flags = false then some ⟨.invalidField, flags.toNat, 0, 11⟩ else none

/-- The enumerated fields of a Request in wire order (43_author_codec.md R182). -/
def requestFieldVerdict (p : Params) (method privLvl authenType authenSvc : Byte) : Option CmdError :=
  if validAuthorMethod p method = false then some ⟨.invalidField, method.toNat, 0, 12⟩
  else if 15 < privLvl.toNat then some ⟨.invalidField, privLvl.toNat, 0, 6⟩
  else if validAuthenType p authenType = false then some ⟨.invalidField, authenType.toNat, 0, 7⟩
  else if validAuthenService p authenSvc = false then some ⟨.invalidField, authenSvc.toNat, 0, 8⟩
  else none

/-- Checks 3 to 5 of the parse discipline (42_authen_codec.md R142). -/
def cursorVerdict (need n l : Nat) : Option CmdError :=
  if n < need then some ⟨.invalidSize, need, n, 0⟩
  else if need ≠ l then some ⟨.lengthMismatch, l, need, 0⟩
  else if need ≠ n then some ⟨.lengthMismatch, n, need, 0⟩
  else none

/-- The checks of `AS_DEC` in their order (42_authen_codec.md R145). -/
def startVerdict (p : Params) (b : Bytes) (l : Nat) : Option CmdError :=
  if b.length < 8 then some ⟨.invalidSize, 8, b.length, 0⟩
  else match startFieldVerdict p (b.getD 0 0) (b.getD 1 0) (b.getD 2 0) (b.getD 3 0) with
    | some e => some e
    | none => cursorVerdict (8 + num8 b 4 + num8 b 5 + num8 b 6 + num8 b 7) b.length l

/-- The checks of `AR_DEC` in their order (42_authen_codec.md R148). -/
def replyVerdict (p : Params) (b : Bytes) (l : Nat) : Option CmdError :=
  if b.length < 6 then some ⟨.invalidSize, 6, b.length, 0⟩
  else match replyFieldVerdict p (b.getD 0 0) (b.getD 1 0) with
    | some e => some e
    | none => cursorVerdict (6 + num16 b 2 + num16 b 4) b.length l

/-- The checks of `AC_DEC` in their order (42_authen_codec.md R151). -/
def continueVerdict (p : Params) (b : Bytes) (l : Nat) : Option CmdError :=
  if b.length < 5 then some ⟨.invalidSize, 5, b.length, 0⟩
  else match continueFieldVerdict p (b.getD 4 0) with
    | some e => some e
    | none => cursorVerdict (5 + num16 b 0 + num16 b 2) b.length l

/-- The sum of the length table `al[0] + ... + al[n-1]` of an Authorization Reply (43_author_codec.md R185). -/
def tableSum (b : Bytes) (n : Nat) : Nat := ((List.range n).map fun i => num8 b (2 + i)).sum

/-- The checks of `ZR_DEC` in their order (43_author_codec.md R185). -/
def authorReplyVerdict (p : Params) (seq : Byte) (b : Bytes) (l : Nat) : Option CmdError :=
  let n := num8 b 1
  if p.hasAuthorReply = false then some ⟨.unsupportedType, 2, seq.toNat, 0⟩
  else if b.length < 6 then some ⟨.invalidSize, 6, b.length, 0⟩
  else if validAuthorStatus p (b.getD 0 0) = false then some ⟨.invalidField, num8 b 0, 0, 13⟩
  else if b.length < 6 + n then some ⟨.invalidSize, 6 + n, b.length, 0⟩
  else cursorVerdict (6 + n + num16 b (2 + n) + num16 b (4 + n) + tableSum b n) b.length l

/-- The header fields in the first 12 bytes of a sequence, as numbers read big-endian (40_header_codec.md R93). -/
def headerIn (b : Bytes) : Header where
  major := BitVec.ofNat 4 (num8 b 0 / 16)
  minor := BitVec.ofNat 4 (num8 b 0 % 16)
  ptype := b.getD 1 0
  seq := b.getD 2 0
  flags := b.getD 3 0
  sid := BitVec.ofNat 32 (num32 b 4)
  len := BitVec.ofNat 32 (num32 b 8)

/-- The checks of `PKT_DIS` in their order (44_packet_ops.md R202). -/
def packetVerdict (p : Params) (w : Bytes) (present : BitVec 1) : Option CmdError :=
  if w.length < 12 then some ⟨.invalidSize, 12, w.length, 0⟩
  else match headerVerdict p (headerIn w) with
    | some e => some e
    | none =>
      if w.length - 12 ≠ num32 w 8 then some ⟨.lengthMismatch, num32 w 8, w.length - 12, 0⟩
      else secretVerdict (w.getD 3 0) present

/-- A one-byte length field. -/
def lenByte (b : Bytes) : Byte := BitVec.ofNat 8 b.length

/-- The Start body (42_authen_codec.md R143). -/
def startBody (r : StartRecord) : Bytes :=
  [r.action, r.privLvl, r.authenType, r.authenSvc,
   lenByte r.user, lenByte r.port, lenByte r.remAddr, lenByte r.content]
    ++ r.user ++ r.port ++ r.remAddr ++ r.content

/-- The Reply body (42_authen_codec.md R146). -/
def replyBody (r : ReplyRecord) : Bytes :=
  [r.status, r.flags] ++ wire16 r.msg.length ++ wire16 r.data.length ++ r.msg ++ r.data

/-- The Continue body (42_authen_codec.md R149). -/
def continueBody (r : ContinueRecord) : Bytes :=
  wire16 r.msg.length ++ wire16 r.data.length ++ [r.flags] ++ r.msg ++ r.data

/-- `ARG[0]` to `ARG[n-1]` (10_state.md R30). -/
def argsBelow (m : Memory) (n : Nat) : List Bytes := (List.range n).map fun i => m.args.toList.getD i []

/-- The Request body (43_author_codec.md R181). -/
def requestBody (x : Regs) (m : Memory) : Bytes :=
  let args := argsBelow m x.argCnt.toNat
  [x.zqMethod, x.privLvl, x.authenType, x.authenSvc, lenByte m.user, lenByte m.port, lenByte m.remAddr, x.argCnt]
    ++ args.map lenByte ++ m.user ++ m.port ++ m.remAddr ++ args.flatten

/-- The Authorization Reply body (43_author_codec.md R184). -/
def authorReplyBody (status : Byte) (args : List Bytes) (msg data : Bytes) : Bytes :=
  [status, BitVec.ofNat 8 args.length] ++ args.map lenByte ++ wire16 msg.length ++ wire16 data.length
    ++ msg ++ data ++ args.flatten

/-- `BODY` holds this Start record, `H_LEN` its length, and every check of `AS_DEC` passes (42_authen_codec.md R143, R145). -/
def StartPresented (s : State) (r : StartRecord) : Prop :=
  s.mem.body = startBody r ∧ s.regs.hLen.toNat = (startBody r).length ∧
  r.user.length ≤ 255 ∧ r.port.length ≤ 255 ∧ r.remAddr.length ≤ 255 ∧ r.content.length ≤ 255 ∧
  startFieldVerdict s.params r.action r.privLvl r.authenType r.authenSvc = none

/-- The state after a Start has been stored (42_authen_codec.md R145). -/
def startStored (s : State) (r : StartRecord) : State :=
  ({ s with
    regs := { s.regs with
      asAction := r.action, privLvl := r.privLvl, authenType := r.authenType, authenSvc := r.authenSvc }
    mem := { s.mem with user := r.user, port := r.port, remAddr := r.remAddr, content := r.content } }).complete

/-- `BODY` holds this Reply record, `H_LEN` its length, and every check of `AR_DEC` passes (42_authen_codec.md R146, R148). -/
def ReplyPresented (s : State) (r : ReplyRecord) : Prop :=
  s.mem.body = replyBody r ∧ s.regs.hLen.toNat = (replyBody r).length ∧
  r.msg.length ≤ 65535 ∧ r.data.length ≤ 65535 ∧
  replyFieldVerdict s.params r.status r.flags = none

/-- The state after a Reply has been stored (42_authen_codec.md R148). -/
def replyStored (s : State) (r : ReplyRecord) : State :=
  ({ s with
    regs := { s.regs with arStatus := r.status, arFlags := r.flags }
    mem := { s.mem with msg := r.msg, data := r.data } }).complete

/-- `BODY` holds this Continue record, `H_LEN` its length, and every check of `AC_DEC` passes (42_authen_codec.md R149, R151). -/
def ContinuePresented (s : State) (r : ContinueRecord) : Prop :=
  s.mem.body = continueBody r ∧ s.regs.hLen.toNat = (continueBody r).length ∧
  r.msg.length ≤ 65535 ∧ r.data.length ≤ 65535 ∧
  continueFieldVerdict s.params r.flags = none

/-- The state after a Continue has been stored (42_authen_codec.md R151). -/
def continueStored (s : State) (r : ContinueRecord) : State :=
  ({ s with
    regs := { s.regs with acFlags := r.flags }
    mem := { s.mem with msg := r.msg, data := r.data } }).complete

/-- `BODY` holds this Authorization Reply, `H_LEN` its length, and every check of `ZR_DEC` passes (43_author_codec.md R184, R185). -/
def AuthorReplyPresented (s : State) (status : Byte) (args : List Bytes) (msg data : Bytes) : Prop :=
  s.params.hasAuthorReply = true ∧
  s.mem.body = authorReplyBody status args msg data ∧
  s.regs.hLen.toNat = (authorReplyBody status args msg data).length ∧
  args.length ≤ 255 ∧ (∀ a ∈ args, a.length ≤ 255) ∧ msg.length ≤ 65535 ∧ data.length ≤ 65535 ∧
  validAuthorStatus s.params status = true

/-- `t` is the state after an Authorization Reply has been stored; argument buffers from its count up keep their content
(43_author_codec.md R185). -/
def AuthorReplyStored (s t : State) (status : Byte) (args : List Bytes) (msg data : Bytes) : Prop :=
  ∃ stored : Vector Bytes 255,
    (∀ i : Fin 255, stored[i.val] = args.getD i.val s.mem.args[i.val]) ∧
    t = ({ s with
      regs := { s.regs with zrStatus := status, argCnt := BitVec.ofNat 8 args.length }
      mem := { s.mem with msg := msg, data := data, args := stored } }).complete

end Sys2Proof.Machine
end

