-- ==== Sys2Proof/Certificates/Slice0/Obligations.lean ====
section
/-! DEFINITION. The statements for the provers, each from a numbered rule of spec/ (OBLIGATIONS.json says which). -/

open Sys2Proof Sys2Proof.Machine

/-! ### Command words -/

/-- 30_encoding.md R70, R72: each of the 17 words, written out from the opcode map, decodes to its command. -/
def Obligations.OpcodeMapDecodes : Prop :=
  decode 0x00 = .ok .nop ∧ decode 0x01 = .ok .clrf ∧ decode 0x02 = .ok .srst ∧
  decode 0x10 = .ok .hdrEnc ∧ decode 0x11 = .ok .hdrDec ∧ decode 0x20 = .ok .cipher ∧
  decode 0x30 = .ok .asEnc ∧ decode 0x31 = .ok .asDec ∧ decode 0x32 = .ok .arEnc ∧
  decode 0x33 = .ok .arDec ∧ decode 0x34 = .ok .acEnc ∧ decode 0x35 = .ok .acDec ∧
  decode 0x40 = .ok .zqEnc ∧ decode 0x43 = .ok .zrDec ∧
  decode 0x50 = .ok .pktAsm ∧ decode 0x51 = .ok .pktDis ∧ decode 0x52 = .ok .bodyDec

/-- 30_encoding.md R70, R71: the eight bits are the opcode and there is nothing else. A word that decodes to a command is that command's
encoding, and the encoding decodes to the command; from a sequence of words the decoder takes exactly the encoding of the command it
reads; and the word the opcode table numbers `w` is read as a command exactly when its low eight bits are that command's opcode. -/
def Obligations.DecodeEncodeAgree : Prop :=
  (∀ op i, decode op = .ok i → encode i = op) ∧ (∀ i, i.wellFormed = true → decode (encode i) = .ok i) ∧
  (∀ (bs rest : Bytes) (i : Instr), decodeBytes bs = .ok (i, rest) ↔ bs = encodeBytes i ++ rest) ∧
  (∀ (w : Nat) (i : Instr), decodeTableWord 8 w = some i ↔ w % 256 = (encode i).toNat)

/-- 30_encoding.md R73, 60_exceptions.md R235: the opcodes of the eight listed ranges, 239 values, and no others, are refused by the
decoder; eighteen of them, 0x41, 0x42 and 0x60 to 0x6F, are the ones held back; writing any of the 239 to CMD raises
`IllegalCommand(op, 0, 0)` and changes nothing but the status registers. -/
def Obligations.IllegalOpcodeRaises : Prop :=
  (∀ op : Byte, illegalOpcode op.toNat = true ↔ ∀ i, decode op ≠ .ok i) ∧
  ((List.range 256).filter illegalOpcode).length = 239 ∧
  (∀ op : Byte, decode op = .error (.heldBack op) ↔
    op.toNat = 0x41 ∨ op.toNat = 0x42 ∨ (0x60 ≤ op.toNat ∧ op.toNat ≤ 0x6F)) ∧
  (∀ (s : State) (op : Byte), illegalOpcode op.toNat = true →
    runCommand op s = .next { s with regs := { s.regs with
      status := statusWord 8 true, errA := BitVec.ofNat 32 op.toNat, errB := 0, errF := 0 } })

/-! ### A step, and the host's transactions -/

/-- 20_memory.md R53: when the host's next transaction writes a word that decodes to a command, the step is that command run on the
state with the transaction taken off (and no answer yet), and a word that decodes to none goes the same way; `withFetchWord` places
such a transaction. That the host's transactions stand in a list is the model's choice (log entry 1). -/
def Obligations.StepRunsDecodedCommand : Prop :=
  (∀ (s : State) (op : Byte) (i : Instr) (rest : List HostTxn),
    s.pending = .regWrite .cmd op :: rest → decode op = .ok i → i.wellFormed = true →
    step s = exec i { s with pending := rest, answer := none }) ∧
  (∀ (s : State) (op : Byte) (rest : List HostTxn), s.pending = .regWrite .cmd op :: rest →
    step s = runCommand op { s with pending := rest, answer := none }) ∧
  (∀ (s : State) (w : Nat) (i : Instr), decodeTableWord 8 w = some i →
    step (s.withFetchWord 8 w) = exec i { s with answer := none })

/-- With nothing pending the block waits (70_reset_and_hazards.md R260; that it does so in a step that changes nothing is the model's
choice, log entry 1). -/
def Obligations.StepWaitsWithNothingPending : Prop :=
  ∀ s : State, s.pending = [] → step s = .next s

/-- 20_memory.md R61: the order of transactions is the host's, and a step takes exactly the first of them (the list that holds them is
the model's, log entry 1). -/
def Obligations.StepTakesOneTransaction : Prop :=
  ∀ s t : State, step s = .next t → t.pending = s.pending.tail

/-- 20_memory.md R52: a write to an RW register sets it, `H_DERIVED` follows `H_FLAGS`, and nothing else changes; a write to an RO
register changes nothing. A value wider than the register cannot be written down, by the type of `regWrite`. -/
def Obligations.RegWriteChangesOneRegister : Prop :=
  ∀ (s : State) (r : Reg) (v : BitVec r.width) (rest : List HostTxn),
    s.pending = .regWrite r v :: rest → r ≠ .cmd →
    ∃ t, step s = .next t ∧ t.mem = s.mem ∧ t.params = s.params ∧ t.pending = rest ∧
      (r.access = .ro → t.regs = s.regs) ∧
      (r.access = .rw → t.regs.read r = v ∧
        (∀ r', r' ≠ r → ¬(r = .hFlags ∧ r' = .hDerived) → t.regs.read r' = s.regs.read r')) ∧
      t.regs.read .hDerived = hDerived (t.regs.read .hFlags)

/-- 20_memory.md R54, R53: a register read and a length read return the value and change nothing of the block; a length is at most the
cap; CMD reads 0. -/
def Obligations.ReadsChangeNothing : Prop :=
  (∀ (s : State) (r : Reg) (rest : List HostTxn), s.pending = .regRead r :: rest →
    step s = .next { s with pending := rest, answer := some (.reg r (s.regs.read r)) }) ∧
  (∀ (s : State) (b : Buf) (rest : List HostTxn), s.pending = .lenRead b :: rest →
    step s = .next { s with pending := rest, answer := some (.len (s.mem.read b).length) }) ∧
  (∀ (m : Memory) (b : Buf), m.wf = true → (m.read b).length ≤ b.cap) ∧
  (∀ x : Regs, x.read .cmd = 0)

/-- 20_memory.md R55: a load within the cap replaces the whole content of its buffer and leaves every other buffer and every register;
one beyond the cap is no transaction of the interface, and the model refuses it by name (log entry 6). -/
def Obligations.BufLoadReplacesOneBuffer : Prop :=
  ∀ (s : State) (b : Buf) (bytes : Bytes) (rest : List HostTxn), s.pending = .bufLoad b bytes :: rest →
    (bytes.length ≤ b.cap → ∃ t, step s = .next t ∧ t.mem.read b = bytes ∧
      (∀ b', b' ≠ b → t.mem.read b' = s.mem.read b') ∧
      t.regs = s.regs ∧ t.params = s.params ∧ t.pending = rest ∧ t.answer = none) ∧
    (b.cap < bytes.length → step s = .refused (.loadTooLong b bytes.length))

/-- 20_memory.md R55, R50: a buffer read returns the whole content, a byte read the byte at an offset below the length; both change
nothing; at an offset past the end there is no byte, and the model stops by name (log entry 7). -/
def Obligations.BufReadsReturnContent : Prop :=
  (∀ (s : State) (b : Buf) (rest : List HostTxn), s.pending = .bufRead b :: rest →
    step s = .next { s with pending := rest, answer := some (.bytes (s.mem.read b)) }) ∧
  (∀ (s : State) (b : Buf) (off : Nat) (rest : List HostTxn), s.pending = .bufReadByte b off :: rest →
    (off < (s.mem.read b).length →
      step s = .next { s with pending := rest, answer := some (.byte ((s.mem.read b).getD off 0)) }) ∧
    ((s.mem.read b).length ≤ off → step s = .fault (.noSuchByte b off)))

/-- 20_memory.md R52, R54, R55, 10_state.md R25: the status registers change only by a command or a reset. -/
def Obligations.OnlyCommandsAndResetTouchStatus : Prop :=
  ∀ s t : State, step s = .next t →
    (∀ op rest, s.pending ≠ .regWrite .cmd op :: rest) → (∀ rest, s.pending ≠ .hardReset :: rest) →
    t.regs.status = s.regs.status ∧ t.regs.errA = s.regs.errA ∧ t.regs.errB = s.regs.errB ∧ t.regs.errF = s.regs.errF

/-- 10_state.md R34: the host cannot write the parameters and no command does. -/
def Obligations.StepKeepsParameters : Prop :=
  ∀ s t : State, step s = .next t → t.params = s.params

/-- 00_scope.md R16: whatever is written to CMD, in whatever state, has exactly one outcome, a next state; it is a success, or one
error whose code is a kind's the block raises. -/
def Obligations.CommandWriteAlwaysCompletes : Prop :=
  ∀ (s : State) (op : Byte) (rest : List HostTxn), s.pending = .regWrite .cmd op :: rest →
    ∃ t, step s = .next t ∧ t.pending = rest ∧ statusErr t.regs.status ∈ blockCodes

/-! ### Reset and the system commands -/

/-- 70_reset_and_hazards.md R261: the reset value of every piece of state, in the model's reset state and whatever the parameters. -/
def Obligations.ResetValues : Prop :=
  ∀ s : State, (s = State.reset ∨ ∃ p, s = State.resetWith p) →
    (∀ r : Reg, r ≠ .hDerived → s.regs.read r = 0) ∧ s.regs.read .hDerived = 1 ∧ (∀ b : Buf, s.mem.read b = [])

/-- 70_reset_and_hazards.md R260: a hardware reset puts the block in the reset state (that it is one more thing in the host's list is
the model's choice, log entry 8). -/
def Obligations.HardResetEqualsReset : Prop :=
  ∀ (s : State) (rest : List HostTxn), s.pending = .hardReset :: rest →
    step s = .next { State.resetWith s.params with pending := rest }

/-- 10_state.md R35, 70_reset_and_hazards.md R262: in the reset state, whatever the parameters, no command that produces packet bytes
succeeds by accident: HDR_ENC and PKT_ASM find the invalid type at the latest, CIPHER the null secret, every parser the empty
buffer (ZR_DEC only with HAS_AUTHOR_REPLY true, else UnsupportedType); and AC_ENC succeeds with five zero bytes. -/
def Obligations.CommandsOnResetState : Prop :=
  ∀ p : Params, let s := State.resetWith p
    (∀ i, i = .hdrEnc ∨ i = .pktAsm →
      exec i s = .next (s.raise .invalidField 0 0
        (if validMajor p 0 = false then 1 else if validMinor p 0 = false then 2 else 3))) ∧
    exec .hdrDec s = .next (s.raise .invalidSize 12 0 0) ∧
    exec .pktDis s = .next (s.raise .invalidSize 12 0 0) ∧
    exec .cipher s = .next (s.raise .configError 0 0 0) ∧
    exec .asDec s = .next (s.raise .invalidSize 8 0 0) ∧
    exec .arDec s = .next (s.raise .invalidSize 6 0 0) ∧
    exec .acDec s = .next (s.raise .invalidSize 5 0 0) ∧
    exec .zrDec s = .next (if p.hasAuthorReply then s.raise .invalidSize 6 0 0 else s.raise .unsupportedType 2 0 0) ∧
    exec .bodyDec s = .next (s.raise .invalidField 0 0 3) ∧
    exec .acEnc s = .next { s with mem := { s.mem with body := [0, 0, 0, 0, 0] } }

/-- 45_system_ops.md R221: NOP clears the code and the information, keeps the latch, and changes nothing else. -/
def Obligations.NopKeepsLatch : Prop :=
  ∀ s : State, exec .nop s = .next { s with regs := { s.regs with
    status := statusWord 0 (statusFlt s.regs.status), errA := 0, errB := 0, errF := 0 } }

/-- 45_system_ops.md R222: CLRF leaves `STATUS = 0` and the information 0, and changes no other register and no buffer. -/
def Obligations.ClrfClearsStatus : Prop :=
  ∀ s : State, exec .clrf s = .next { s with regs := { s.regs with
    status := 0, errA := 0, errB := 0, errF := 0 } }

/-- 45_system_ops.md R223: SRST leaves exactly the reset state, the secret included, and H_DERIVED reads 1. -/
def Obligations.SrstEqualsReset : Prop :=
  ∀ s : State, ∃ t, exec .srst s = .next t ∧ t.regs = (State.resetWith s.params).regs ∧
    t.mem = (State.resetWith s.params).mem ∧ t.params = s.params ∧ t.regs.read .hDerived = 1

/-! ### Status, errors, frames -/

/-- 10_state.md R24: the two derived bits as functions of the flags byte; writing a header changes them in the same step. -/
def Obligations.DerivedFlagsFollowFlags : Prop :=
  (∀ x : Regs, (x.read .hDerived).getLsbD 0 = decide (x.hFlags &&& 0x01 = 0) ∧
    (x.read .hDerived).getLsbD 1 = decide (x.hFlags &&& 0x04 ≠ 0)) ∧
  hDerived 0x00 = 1 ∧ hDerived 0x01 = 0 ∧ hDerived 0x04 = 3 ∧ hDerived 0x05 = 2 ∧ hDerived 0x02 = 1 ∧ hDerived 0xFF = 2

/-- 00_scope.md R16, 60_exceptions.md R238, R239: every command in every state ends in a next state, either a success (code and
information 0, latch kept but in CLRF and SRST, which clear it) or one error, which writes the five status values and nothing
else. -/
def Obligations.CommandsAreAllOrNothing : Prop :=
  ∀ (i : Instr) (s : State), ∃ t, exec i s = .next t ∧
    ((statusErr t.regs.status = 0 ∧ statusReserved t.regs.status = 0 ∧
        t.regs.errA = 0 ∧ t.regs.errB = 0 ∧ t.regs.errF = 0 ∧
        statusFlt t.regs.status = (statusFlt s.regs.status && decide (i ≠ .clrf ∧ i ≠ .srst))) ∨
      (∃ (k : ErrKind) (a b f : Nat),
        t = { s with regs := { s.regs with
          status := statusWord k.code true
          errA := BitVec.ofNat 32 a, errB := BitVec.ofNat 32 b, errF := BitVec.ofNat 8 f } }))

/-- 60_exceptions.md R245: no step brings a host-side code, 5, 6 or 9, into `STATUS.ERR`. -/
def Obligations.HostKindsNeverWritten : Prop :=
  (∀ (op : Byte) (s t : State), runCommand op s = .next t →
    statusErr t.regs.status ≠ 5 ∧ statusErr t.regs.status ≠ 6 ∧ statusErr t.regs.status ≠ 9) ∧
  (∀ s t : State, step s = .next t →
    (statusErr s.regs.status ≠ 5 ∧ statusErr s.regs.status ≠ 6 ∧ statusErr s.regs.status ≠ 9) →
    (statusErr t.regs.status ≠ 5 ∧ statusErr t.regs.status ≠ 6 ∧ statusErr t.regs.status ≠ 9))

/-- 60_exceptions.md R240: the next command is accepted whatever the status registers hold, its outcome but for the latch does not
depend on them, and a set latch stays set until CLRF, SRST or reset. -/
def Obligations.NextCommandIgnoresStatus : Prop :=
  (∀ (i : Instr) (s : State) (status errA errB : Word) (errF : Byte),
    ∃ t t', exec i s = .next t ∧
      exec i { s with regs := { s.regs with status := status, errA := errA, errB := errB, errF := errF } } = .next t' ∧
      t'.mem = t.mem ∧ (∀ r, r ≠ .status → t'.regs.read r = t.regs.read r) ∧
      statusErr t'.regs.status = statusErr t.regs.status) ∧
  (∀ s t : State, step s = .next t → statusFlt s.regs.status = true →
    (∀ rest, s.pending ≠ .regWrite .cmd 0x01 :: rest) → (∀ rest, s.pending ≠ .regWrite .cmd 0x02 :: rest) →
    (∀ rest, s.pending ≠ .hardReset :: rest) → statusFlt t.regs.status = true)

/-- Which command can end in which error, both ways, and that every other opcode ends in IllegalCommand: the table of 60_exceptions.md
R247, which the spec marks "derived: from the command rules of files 40 to 45". -/
def Obligations.ErrorTable : Prop :=
  (∀ (i : Instr) (k : ErrKind),
    (∃ s t, exec i s = .next t ∧ statusErr t.regs.status = k.code) ↔ canEndIn i k = true) ∧
  (∀ (op : Byte) (s : State), (∀ i, decode op ≠ .ok i) →
    ∃ t, runCommand op s = .next t ∧ statusErr t.regs.status = ErrKind.illegalCommand.code)

/-- 20_memory.md R51, 30_encoding.md R72, 10_state.md R27, R32: the frame of every command. Every byte, and the length, of a buffer
outside the command's "writes" column, every register outside it but the four status registers, the parameters and the host's list
are as before; after an error every buffer and every register but the four is. -/
def Obligations.CommandFrame : Prop :=
  ∀ (i : Instr) (s : State), ∃ t, exec i s = .next t ∧
    (∀ b off, writesBuf i b = false ∨ ¬t.Ok → t.mem.readByte b off = s.mem.readByte b off) ∧
    (∀ b, writesBuf i b = false ∨ ¬t.Ok → (t.mem.read b).length = (s.mem.read b).length) ∧
    (∀ r, r.isStatus = false → writesReg i r = false ∨ ¬t.Ok → t.regs.read r = s.regs.read r) ∧
    t.params = s.params ∧ t.pending = s.pending ∧ t.answer = s.answer

/-- 00_scope.md R19, 20_memory.md R51, 30_encoding.md R72: no command's result depends on anything but the registers and buffers of its
"reads" column: in two states that agree on those (and on the parameters) a command has the same outcome, and every register and
buffer is afterwards either equal in both or untouched in both. -/
def Obligations.CommandReadsOnlyItsOperands : Prop :=
  ∀ (i : Instr) (s s' : State), s.params = s'.params →
    (∀ r, readsReg i r = true → s.regs.read r = s'.regs.read r) →
    (∀ b, readsBuf i s.regs.argCnt b = true → s.mem.read b = s'.mem.read b) →
    ∃ t t', exec i s = .next t ∧ exec i s' = .next t' ∧
      statusErr t.regs.status = statusErr t'.regs.status ∧
      t.regs.errA = t'.regs.errA ∧ t.regs.errB = t'.regs.errB ∧ t.regs.errF = t'.regs.errF ∧
      (∀ r, r ≠ .status → t.regs.read r = t'.regs.read r ∨
        (t.regs.read r = s.regs.read r ∧ t'.regs.read r = s'.regs.read r)) ∧
      (∀ b, t.mem.read b = t'.mem.read b ∨ (t.mem.read b = s.mem.read b ∧ t'.mem.read b = s'.mem.read b))

/-! ### The header codec -/

/-- 00_scope.md R5, R6, R7, 40_header_codec.md R94: the closed sets. 1 is a major version, 2 a minor version and
0x00 a Continue flag in every instance (log entries 3, 4); types, flag bytes and privilege levels are exactly the listed values; the
open sets are the instance's; and in the reset state's instance Reply flags and Continue flags are the reference codes of R6, 0x00 and
0x01 (log entry 2). -/
def Obligations.ClosedSets : Prop :=
  (∀ p : Params, validMajor p 1 = true ∧ validMinor p 2 = true ∧ validContinueFlag p 0x00 = true) ∧
  (∀ (p : Params) (v : BitVec 4),
    (validMajor p v = true ↔ v = 1 ∨ v ∈ p.otherMajors) ∧ (validMinor p v = true ↔ v = 2 ∨ v ∈ p.otherMinors)) ∧
  (∀ v : Byte, (validType v = true ↔ v ∈ [0x01, 0x02, 0x03]) ∧
    (validFlags v = true ↔ v ∈ [0x00, 0x01, 0x04, 0x05]) ∧ (validPrivLvl v = true ↔ v.toNat ≤ 15)) ∧
  (∀ (p : Params) (v : Byte), (validAction p v = true ↔ v ∈ p.action) ∧ (validAuthenType p v = true ↔ v ∈ p.authenType) ∧
    (validAuthenService p v = true ↔ v ∈ p.authenService) ∧ (validAuthenStatus p v = true ↔ v ∈ p.authenStatus) ∧
    (validReplyFlag p v = true ↔ v ∈ p.replyFlag) ∧ (validContinueFlag p v = true ↔ v = 0x00 ∨ v ∈ p.otherContinueFlags) ∧
    (validAuthorMethod p v = true ↔ v ∈ p.authorMethod) ∧ (validAuthorStatus p v = true ↔ v ∈ p.authorStatus)) ∧
  (∀ v : Byte, (validReplyFlag State.reset.params v = true ↔ v ∈ [0x00, 0x01]) ∧
    (validContinueFlag State.reset.params v = true ↔ v ∈ [0x00, 0x01]))

/-- 40_header_codec.md R91, R93: the model's packing is the layout of R90, unpacking is R93's, and each inverts the other (which R93 marks
"derived: from rule R91 and 00_scope.md rule R10"). -/
def Obligations.HeaderPackUnpackInverse : Prop :=
  (∀ h : Header, hdrPack h = headerBytes h ∧ (hdrPack h).length = 12 ∧ hdrUnpack (hdrPack h) = h) ∧
  (∀ b : Bytes, b.length = 12 → hdrUnpack b = headerIn b ∧ hdrPack (hdrUnpack b) = b)

/-- 40_header_codec.md R95: HDR_ENC packs the header registers where the four tests pass, and raises the first that fails. -/
def Obligations.HdrEncPacksHeader : Prop :=
  ∀ s : State,
    (headerVerdict s.params s.regs.header = none →
      exec .hdrEnc s = .next ({ s with mem := { s.mem with hbuf := headerBytes s.regs.header } }).complete) ∧
    (∀ e, headerVerdict s.params s.regs.header = some e → exec .hdrEnc s = .next (s.enterError e))

/-- 40_header_codec.md R97, R96: HDR_DEC unpacks exactly 12 bytes whose fields pass the four tests; any other length, longer included, is
`InvalidSize(12, HBUF_LEN, 0)`; else the first failing test is raised. -/
def Obligations.HdrDecUnpacksHeader : Prop :=
  (∀ (s : State) (h : Header), s.mem.hbuf = headerBytes h → headerVerdict s.params h = none →
    exec .hdrDec s = .next ({ s with regs := { s.regs with
      hMajor := h.major, hMinor := h.minor, hType := h.ptype, hSeq := h.seq
      hFlags := h.flags, hSid := h.sid, hLen := h.len } }).complete) ∧
  (∀ s : State, s.mem.hbuf.length ≠ 12 →
    exec .hdrDec s = .next (s.raise .invalidSize 12 s.mem.hbuf.length 0)) ∧
  (∀ (s : State) (e : CmdError), s.mem.hbuf.length = 12 → headerVerdict s.params (headerIn s.mem.hbuf) = some e →
    exec .hdrDec s = .next (s.enterError e))

/-- 40_header_codec.md R98: HDR_ENC then HDR_DEC leave the seven header registers as they were, and the converse (which R98 marks
"derived: from rule R93"). -/
def Obligations.HeaderRoundTrip : Prop :=
  (∀ s : State, headerVerdict s.params s.regs.header = none →
    ∃ t u, exec .hdrEnc s = .next t ∧ t.Ok ∧ exec .hdrDec t = .next u ∧ u.Ok ∧ u.regs.header = s.regs.header) ∧
  (∀ s t : State, exec .hdrDec s = .next t → t.Ok →
    ∃ u, exec .hdrEnc t = .next u ∧ u.Ok ∧ u.mem.hbuf = s.mem.hbuf)

/-- 40_header_codec.md R99, which the spec marks "derived: from rule R95 and rule R97": HDR_ENC accepts the fields in the registers exactly when HDR_DEC accepts the same fields in HBUF. -/
def Obligations.HeaderCodecsAcceptAlike : Prop :=
  ∀ s s' : State, s.params = s'.params → s'.mem.hbuf = headerBytes s.regs.header →
    ∃ t t', exec .hdrEnc s = .next t ∧ exec .hdrDec s' = .next t' ∧ (t.Ok ↔ t'.Ok)

/-! ### The body cipher -/

/-- 41_body_cipher.md R111: the keystream has `n` bytes, byte `i` being `pad(i div 16)[i mod 16]`, each pad after the first the hash of
the previous pad alone; each pad has 16 bytes. -/
def Obligations.KeystreamIsPadChain : Prop :=
  ∀ (sid : Word) (secret : Bytes) (vb seq : Byte) (n : Nat),
    (keystream sid secret vb seq n).length = n ∧
    (∀ k, (padOf sid secret vb seq k).length = 16) ∧
    (∀ i, i < n → (keystream sid secret vb seq n).getD i 0 = (padOf sid secret vb seq (i / 16)).getD (i % 16) 0)

/-- 41_body_cipher.md R117, which the spec marks "derived: from rule R111": a shorter keystream is the beginning of a longer one, and what CIPHER adds to a body does not depend on the
body's bytes, on H_TYPE, on H_LEN or on bits 7:1 of H_FLAGS. -/
def Obligations.KeystreamIndependence : Prop :=
  (∀ (sid : Word) (secret : Bytes) (vb seq : Byte) (n n' : Nat), n ≤ n' →
    keystream sid secret vb seq n = (keystream sid secret vb seq n').take n) ∧
  (∀ (s : State) (body : Bytes) (ptype flags : Byte) (len : Word),
    s.regs.secretPresent = 1 → s.regs.hFlags &&& 0x01 = 0 → flags &&& 0x01 = 0 → body.length = s.mem.body.length →
    ∃ t t', exec .cipher s = .next t ∧
      exec .cipher { s with
        regs := { s.regs with hType := ptype, hFlags := flags, hLen := len }
        mem := { s.mem with body := body } } = .next t' ∧
      ∀ i, i < body.length →
        t.mem.body.getD i 0 ^^^ s.mem.body.getD i 0 = t'.mem.body.getD i 0 ^^^ body.getD i 0)

/-- 41_body_cipher.md R112: CIPHER leaves the body alone, whatever the secret, with the Unencrypted flag set; raises
`ConfigError(0, 0, 0)` with the flag clear and the secret null; else XORs the body with the keystream. It changes nothing else. -/
def Obligations.CipherResult : Prop :=
  ∀ s : State,
    (s.regs.hFlags &&& 0x01 ≠ 0 → exec .cipher s = .next s.complete) ∧
    (s.regs.hFlags &&& 0x01 = 0 → s.regs.secretPresent = 0 → exec .cipher s = .next (s.raise .configError 0 0 0)) ∧
    (s.regs.hFlags &&& 0x01 = 0 → s.regs.secretPresent = 1 →
      ∃ c, Ciphered s.regs.header s.mem.secret s.mem.body c ∧
        exec .cipher s = .next ({ s with mem := { s.mem with body := c } }).complete)

/-- 41_body_cipher.md R116: two CIPHER commands in a row leave BODY as it was. -/
def Obligations.CipherSelfInverse : Prop :=
  ∀ s t : State, exec .cipher s = .next t → t.Ok →
    ∃ u, exec .cipher t = .next u ∧ u.Ok ∧ u.mem.body = s.mem.body

/-- 41_body_cipher.md R121, which the spec gives from general knowledge (PRESUMED, log entry 9): the padded message is the message, 0x80, the least number of zero bytes that leaves 56 modulo 64, and the
bit length little-endian in 8 bytes; its length is a multiple of 64. -/
def Obligations.Md5PaddingIsLeast : Prop :=
  ∀ m : Bytes, ∃ z : Nat,
    md5Pad m = m ++ [0x80] ++ List.replicate z 0 ++
      (List.range 8).map (fun j => BitVec.ofNat 8 (8 * m.length % 2 ^ 64 / 2 ^ (8 * j))) ∧
    (m.length + 1 + z) % 64 = 56 ∧ (∀ z' < z, (m.length + 1 + z') % 64 ≠ 56) ∧ (md5Pad m).length % 64 = 0

/-- 41_body_cipher.md R120, R126, R127, which the spec gives from general knowledge (PRESUMED, log entry 9): MD5 answers 16 bytes for every message, the four words of the last state little-endian, and
blocks are processed in order, each from the state the previous one left. -/
def Obligations.Md5ProcessesBlocksInOrder : Prop :=
  (∀ m : Bytes, (md5 m).length = 16) ∧
  (∀ m : Bytes, ∃ blocks : List Bytes, blocks.flatten = md5Pad m ∧ (∀ b ∈ blocks, b.length = 64) ∧
    md5 m = md5Output (blocks.foldl md5Compress md5Init)) ∧
  (∀ x : Md5State, ∀ i < 4, (md5Output x).getD i 0 = BitVec.ofNat 8 (x.a.toNat / 2 ^ (8 * i)) ∧
    (md5Output x).getD (4 + i) 0 = BitVec.ofNat 8 (x.b.toNat / 2 ^ (8 * i)) ∧
    (md5Output x).getD (8 + i) 0 = BitVec.ofNat 8 (x.c.toNat / 2 ^ (8 * i)) ∧
    (md5Output x).getD (12 + i) 0 = BitVec.ofNat 8 (x.d.toNat / 2 ^ (8 * i)))

/-! ### The Authentication codec -/

/-- 42_authen_codec.md R144, R143: AS_ENC writes the Start body, or raises the first field outside its set. -/
def Obligations.AsEncWritesStart : Prop :=
  ∀ s : State,
    (startFieldVerdict s.params s.regs.asAction s.regs.privLvl s.regs.authenType s.regs.authenSvc = none →
      exec .asEnc s = .next ({ s with mem := { s.mem with
        body := (startBody ⟨s.regs.asAction, s.regs.privLvl, s.regs.authenType, s.regs.authenSvc,
          s.mem.user, s.mem.port, s.mem.remAddr, s.mem.content⟩) } }).complete) ∧
    (∀ e, startFieldVerdict s.params s.regs.asAction s.regs.privLvl s.regs.authenType s.regs.authenSvc = some e →
      exec .asEnc s = .next (s.enterError e))

/-- 42_authen_codec.md R145, R142: AS_DEC stores the Start a well-laid-out body holds, and nothing else; otherwise it raises the first
failing check of the rule's order. -/
def Obligations.AsDecStoresStart : Prop :=
  (∀ (s : State) (r : StartRecord), StartPresented s r → exec .asDec s = .next (startStored s r)) ∧
  (∀ (s : State) (e : CmdError), startVerdict s.params s.mem.body s.regs.hLen.toNat = some e →
    exec .asDec s = .next (s.enterError e)) ∧
  (∀ s : State, startVerdict s.params s.mem.body s.regs.hLen.toNat = none → ∃ r, StartPresented s r)

/-- 42_authen_codec.md R147, R146: AR_ENC writes the Reply body, or raises the first field outside its set. -/
def Obligations.ArEncWritesReply : Prop :=
  ∀ s : State,
    (replyFieldVerdict s.params s.regs.arStatus s.regs.arFlags = none →
      exec .arEnc s = .next ({ s with mem := { s.mem with
        body := (replyBody ⟨s.regs.arStatus, s.regs.arFlags, s.mem.msg, s.mem.data⟩) } }).complete) ∧
    (∀ e, replyFieldVerdict s.params s.regs.arStatus s.regs.arFlags = some e →
      exec .arEnc s = .next (s.enterError e))

/-- 42_authen_codec.md R148, R142: AR_DEC stores the Reply a well-laid-out body holds, and nothing else; otherwise it raises the first
failing check of the rule's order. In an instance whose Reply flags are the source's codes, 0x00 and 0x01, any other flags byte after a
known status is `InvalidField` (that R148's sentence is about that instance is the model's reading, log entry 4). -/
def Obligations.ArDecStoresReply : Prop :=
  (∀ (s : State) (r : ReplyRecord), ReplyPresented s r → exec .arDec s = .next (replyStored s r)) ∧
  (∀ (s : State) (e : CmdError), replyVerdict s.params s.mem.body s.regs.hLen.toNat = some e →
    exec .arDec s = .next (s.enterError e)) ∧
  (∀ s : State, replyVerdict s.params s.mem.body s.regs.hLen.toNat = none → ∃ r, ReplyPresented s r) ∧
  (∀ s : State, (∀ v, v ∈ s.params.replyFlag ↔ v = 0x00 ∨ v = 0x01) → 6 ≤ s.mem.body.length →
    validAuthenStatus s.params (s.mem.body.getD 0 0) = true →
    s.mem.body.getD 1 0 ≠ 0x00 → s.mem.body.getD 1 0 ≠ 0x01 →
    exec .arDec s = .next (s.raise .invalidField (s.mem.body.getD 1 0).toNat 0 10))

/-- 42_authen_codec.md R150, R149: AC_ENC writes the Continue body, or raises the flags outside their set. -/
def Obligations.AcEncWritesContinue : Prop :=
  ∀ s : State,
    (continueFieldVerdict s.params s.regs.acFlags = none →
      exec .acEnc s = .next ({ s with mem := { s.mem with
        body := (continueBody ⟨s.regs.acFlags, s.mem.msg, s.mem.data⟩) } }).complete) ∧
    (∀ e, continueFieldVerdict s.params s.regs.acFlags = some e → exec .acEnc s = .next (s.enterError e))

/-- 42_authen_codec.md R151, R142: AC_DEC stores the Continue a well-laid-out body holds, and nothing else; otherwise it raises the first
failing check of the rule's order. -/
def Obligations.AcDecStoresContinue : Prop :=
  (∀ (s : State) (r : ContinueRecord), ContinuePresented s r → exec .acDec s = .next (continueStored s r)) ∧
  (∀ (s : State) (e : CmdError), continueVerdict s.params s.mem.body s.regs.hLen.toNat = some e →
    exec .acDec s = .next (s.enterError e)) ∧
  (∀ s : State, continueVerdict s.params s.mem.body s.regs.hLen.toNat = none → ∃ r, ContinuePresented s r)

/-- 42_authen_codec.md R153: the serialised sizes, and that each length field equals the length of its segment exactly, in a state
within the buffer caps. -/
def Obligations.SerialisedSizes : Prop :=
  (∀ s t : State, s.mem.wf = true → exec .asEnc s = .next t → t.Ok →
    t.mem.body.length = 8 + s.mem.user.length + s.mem.port.length + s.mem.remAddr.length + s.mem.content.length ∧
    num8 t.mem.body 4 = s.mem.user.length ∧ num8 t.mem.body 5 = s.mem.port.length ∧
    num8 t.mem.body 6 = s.mem.remAddr.length ∧ num8 t.mem.body 7 = s.mem.content.length) ∧
  (∀ s t : State, s.mem.wf = true → exec .arEnc s = .next t → t.Ok →
    t.mem.body.length = 6 + s.mem.msg.length + s.mem.data.length ∧
    num16 t.mem.body 2 = s.mem.msg.length ∧ num16 t.mem.body 4 = s.mem.data.length) ∧
  (∀ s t : State, s.mem.wf = true → exec .acEnc s = .next t → t.Ok →
    t.mem.body.length = 5 + s.mem.msg.length + s.mem.data.length ∧
    num16 t.mem.body 0 = s.mem.msg.length ∧ num16 t.mem.body 2 = s.mem.data.length)

/-- 42_authen_codec.md R152 for the Start: AS_ENC, H_LEN set to BODY_LEN, AS_DEC leaves every register and buffer of the record as it
was, in a state within the buffer caps; and AS_ENC after a successful AS_DEC writes the same body (the converse, which R152 marks
"derived: from the layouts of rules R143, R146 and R149"). -/
def Obligations.StartRoundTrip : Prop :=
  (∀ s : State, s.mem.wf = true →
    startFieldVerdict s.params s.regs.asAction s.regs.privLvl s.regs.authenType s.regs.authenSvc = none →
    ∃ t u, exec .asEnc s = .next t ∧ t.Ok ∧
      exec .asDec { t with regs := { t.regs with hLen := BitVec.ofNat 32 t.mem.body.length } } = .next u ∧ u.Ok ∧
      u.startRecord = s.startRecord) ∧
  (∀ s t : State, exec .asDec s = .next t → t.Ok →
    ∃ u, exec .asEnc t = .next u ∧ u.Ok ∧ u.mem.body = s.mem.body)

/-- 42_authen_codec.md R152 for the Reply. -/
def Obligations.ReplyRoundTrip : Prop :=
  (∀ s : State, s.mem.wf = true → replyFieldVerdict s.params s.regs.arStatus s.regs.arFlags = none →
    ∃ t u, exec .arEnc s = .next t ∧ t.Ok ∧
      exec .arDec { t with regs := { t.regs with hLen := BitVec.ofNat 32 t.mem.body.length } } = .next u ∧ u.Ok ∧
      u.replyRecord = s.replyRecord) ∧
  (∀ s t : State, exec .arDec s = .next t → t.Ok →
    ∃ u, exec .arEnc t = .next u ∧ u.Ok ∧ u.mem.body = s.mem.body)

/-- 42_authen_codec.md R152 for the Continue. -/
def Obligations.ContinueRoundTrip : Prop :=
  (∀ s : State, s.mem.wf = true → continueFieldVerdict s.params s.regs.acFlags = none →
    ∃ t u, exec .acEnc s = .next t ∧ t.Ok ∧
      exec .acDec { t with regs := { t.regs with hLen := BitVec.ofNat 32 t.mem.body.length } } = .next u ∧ u.Ok ∧
      u.continueRecord = s.continueRecord) ∧
  (∀ s t : State, exec .acDec s = .next t → t.Ok →
    ∃ u, exec .acEnc t = .next u ∧ u.Ok ∧ u.mem.body = s.mem.body)

/-! ### The Authorization codec -/

/-- 43_author_codec.md R182, R181: ZQ_ENC writes the Request body with the arguments below ARG_CNT in order, or raises the first field
outside its set. -/
def Obligations.ZqEncWritesRequest : Prop :=
  ∀ s : State,
    (requestFieldVerdict s.params s.regs.zqMethod s.regs.privLvl s.regs.authenType s.regs.authenSvc = none →
      exec .zqEnc s = .next ({ s with mem := { s.mem with body := requestBody s.regs s.mem } }).complete) ∧
    (∀ e, requestFieldVerdict s.params s.regs.zqMethod s.regs.privLvl s.regs.authenType s.regs.authenSvc = some e →
      exec .zqEnc s = .next (s.enterError e))

/-- 43_author_codec.md R183, which the spec marks "derived: from rule R182 and 44_packet_ops.md rule R201": in a state within the buffer caps, after ZQ_ENC the table has ARG_CNT entries, entry `i` is the length of
argument `i`, and table and values independently give the body's length, which PKT_ASM puts in H_LEN. -/
def Obligations.RequestTableConsistent : Prop :=
  ∀ s t : State, s.mem.wf = true → exec .zqEnc s = .next t → t.Ok →
    num8 t.mem.body 7 = s.regs.argCnt.toNat ∧
    (∀ i, i < s.regs.argCnt.toNat → num8 t.mem.body (8 + i) = (s.mem.args.toList.getD i []).length) ∧
    t.mem.body.length = 8 + s.regs.argCnt.toNat + s.mem.user.length + s.mem.port.length + s.mem.remAddr.length +
      ((List.range s.regs.argCnt.toNat).map fun i => num8 t.mem.body (8 + i)).sum ∧
    (∀ u, exec .pktAsm t = .next u → u.Ok → u.regs.hLen.toNat = t.mem.body.length)

/-- 43_author_codec.md R185, R184: with HAS_AUTHOR_REPLY true ZR_DEC stores the Authorization Reply a well-laid-out body holds, argument
buffers from its count up keeping their content; otherwise, and always with the parameter false, it raises the first failing check of
the rule's order. -/
def Obligations.ZrDecStoresAuthorReply : Prop :=
  (∀ (s : State) (status : Byte) (args : List Bytes) (msg data : Bytes),
    AuthorReplyPresented s status args msg data →
    ∃ t, exec .zrDec s = .next t ∧ AuthorReplyStored s t status args msg data) ∧
  (∀ (s : State) (e : CmdError),
    authorReplyVerdict s.params s.regs.hSeq s.mem.body s.regs.hLen.toNat = some e →
    exec .zrDec s = .next (s.enterError e)) ∧
  (∀ s : State, authorReplyVerdict s.params s.regs.hSeq s.mem.body s.regs.hLen.toNat = none →
    ∃ status args msg data, AuthorReplyPresented s status args msg data)

/-! ### Packets -/

/-- 44_packet_ops.md R201, R200: PKT_ASM writes H_LEN and WIRE, the header of the body's length then the ciphered body, in a state within
the buffer caps; a header field outside its set comes before the null secret. -/
def Obligations.PktAsmAssemblesPacket : Prop :=
  ∀ s : State, s.mem.wf = true →
    (headerVerdict s.params s.regs.header = none → secretVerdict s.regs.hFlags s.regs.secretPresent = none →
      ∃ c len, len.toNat = s.mem.body.length ∧
        Ciphered { s.regs.header with len := len } s.mem.secret s.mem.body c ∧
        exec .pktAsm s = .next ({ s with
          regs := { s.regs with hLen := len }
          mem := { s.mem with wire := headerBytes { s.regs.header with len := len } ++ c } }).complete) ∧
    (∀ e, headerVerdict s.params s.regs.header = some e → exec .pktAsm s = .next (s.enterError e)) ∧
    (∀ e, headerVerdict s.params s.regs.header = none → secretVerdict s.regs.hFlags s.regs.secretPresent = some e →
      exec .pktAsm s = .next (s.enterError e))

/-- 44_packet_ops.md R202: PKT_DIS unpacks the header of WIRE and deciphers the rest, keyed from that header; otherwise it raises the first
failing check of the rule's order. -/
def Obligations.PktDisTakesPacketApart : Prop :=
  (∀ (s : State) (h : Header) (c : Bytes),
    s.mem.wire = headerBytes h ++ c → c.length = h.len.toNat →
    headerVerdict s.params h = none → secretVerdict h.flags s.regs.secretPresent = none →
    ∃ b, Ciphered h s.mem.secret c b ∧
      exec .pktDis s = .next ({ s with
        regs := { s.regs with
          hMajor := h.major, hMinor := h.minor, hType := h.ptype, hSeq := h.seq
          hFlags := h.flags, hSid := h.sid, hLen := h.len }
        mem := { s.mem with body := b } }).complete) ∧
  (∀ (s : State) (e : CmdError), packetVerdict s.params s.mem.wire s.regs.secretPresent = some e →
    exec .pktDis s = .next (s.enterError e)) ∧
  (∀ s : State, packetVerdict s.params s.mem.wire s.regs.secretPresent = none →
    ∃ t, exec .pktDis s = .next t ∧ t.Ok)

/-- 44_packet_ops.md R203, R204: the dispatch table. On a parser row BODY_DEC completes as the selected parser does; on the others it
raises. -/
def Obligations.BodyDecDispatches : Prop :=
  (∀ (s : State) (r : StartRecord), s.regs.hType = 1 → s.regs.hSeq = 1 → StartPresented s r →
    exec .bodyDec s = .next (startStored s r)) ∧
  (∀ s : State, s.regs.hType = 1 → s.regs.hSeq = 1 → exec .bodyDec s = exec .asDec s) ∧
  (∀ s : State, s.regs.hType = 1 → s.regs.hSeq.toNat % 2 = 0 → s.regs.hSeq ≠ 0 → exec .bodyDec s = exec .arDec s) ∧
  (∀ s : State, s.regs.hType = 1 → s.regs.hSeq.toNat % 2 = 1 → 3 ≤ s.regs.hSeq.toNat → s.regs.hSeq.toNat ≤ 253 →
    exec .bodyDec s = exec .acDec s) ∧
  (∀ s : State, s.regs.hType = 1 → s.regs.hSeq = 0 ∨ s.regs.hSeq = 255 →
    exec .bodyDec s = .next (s.raise .unsupportedType 1 s.regs.hSeq.toNat 0)) ∧
  (∀ s : State, s.regs.hType = 2 → s.regs.hSeq = 2 → exec .bodyDec s = exec .zrDec s) ∧
  (∀ s : State, s.regs.hType = 2 → s.regs.hSeq ≠ 2 →
    exec .bodyDec s = .next (s.raise .unsupportedType 2 s.regs.hSeq.toNat 0)) ∧
  (∀ s : State, s.regs.hType = 3 → exec .bodyDec s = .next (s.raise .unsupportedType 3 s.regs.hSeq.toNat 0)) ∧
  (∀ s : State, s.regs.hType ≠ 1 → s.regs.hType ≠ 2 → s.regs.hType ≠ 3 →
    exec .bodyDec s = .next (s.raise .invalidField s.regs.hType.toNat 0 3))

/-- 44_packet_ops.md R207, 90_conflicts.md C4: an Accounting header is accepted by HDR_ENC, HDR_DEC, PKT_ASM and PKT_DIS wherever the other
fields, and for the packet commands the secret and the length, are, and BODY_DEC answers its body with UnsupportedType. -/
def Obligations.AccountingHeaderAcceptedBodyUnsupported : Prop :=
  (∀ s : State, s.regs.hType = 3 → validMajor s.params s.regs.hMajor = true → validMinor s.params s.regs.hMinor = true →
    validFlags s.regs.hFlags = true →
    (∃ t u, exec .hdrEnc s = .next t ∧ t.Ok ∧ exec .hdrDec t = .next u ∧ u.Ok ∧ u.regs.hType = 3) ∧
    (s.mem.wf = true → secretVerdict s.regs.hFlags s.regs.secretPresent = none →
      ∃ t u, exec .pktAsm s = .next t ∧ t.Ok ∧ exec .pktDis t = .next u ∧ u.Ok ∧ u.regs.hType = 3)) ∧
  (∀ s : State, s.regs.hType = 3 → exec .bodyDec s = .next (s.raise .unsupportedType 3 s.regs.hSeq.toNat 0))

/-- 44_packet_ops.md R208, which the spec marks "derived: from rule R201, rule R202": after a successful PKT_ASM, PKT_DIS succeeds, leaves the header registers as PKT_ASM left them and writes back
the body, in a state within the buffer caps. -/
def Obligations.AssemblyRoundTrip : Prop :=
  ∀ s t : State, s.mem.wf = true → exec .pktAsm s = .next t → t.Ok →
    ∃ u, exec .pktDis t = .next u ∧ u.Ok ∧ u.regs.header = t.regs.header ∧
      u.regs.hLen.toNat = s.mem.body.length ∧ u.mem.body = s.mem.body

/-- 44_packet_ops.md R209, which the spec marks "derived: from rule R201": PKT_ASM equals setting H_LEN to BODY_LEN, HDR_ENC, CIPHER and joining HBUF and BODY, but that it leaves HBUF
and BODY unchanged; and it reports the header error first. -/
def Obligations.AssemblyIsComposition : Prop :=
  ∀ s : State, let s' := { s with regs := { s.regs with hLen := BitVec.ofNat 32 s.mem.body.length } }
    (∀ a b, exec .hdrEnc s' = .next a → a.Ok → exec .cipher a = .next b → b.Ok →
      ∃ t, exec .pktAsm s = .next t ∧ t.Ok ∧ t.mem.wire = b.mem.hbuf ++ b.mem.body ∧ t.regs.hLen = s'.regs.hLen ∧
        t.mem.hbuf = s.mem.hbuf ∧ t.mem.body = s.mem.body) ∧
    (∀ a, exec .hdrEnc s' = .next a → ¬a.Ok →
      ∃ t, exec .pktAsm s = .next t ∧ t.regs.status = a.regs.status ∧ t.regs.errA = a.regs.errA ∧
        t.regs.errB = a.regs.errB ∧ t.regs.errF = a.regs.errF ∧ t.mem = s.mem) ∧
    (∀ a b, exec .hdrEnc s' = .next a → a.Ok → exec .cipher a = .next b → ¬b.Ok →
      ∃ t, exec .pktAsm s = .next t ∧ statusErr t.regs.status = statusErr b.regs.status ∧ t.mem = s.mem)

/-- 42_authen_codec.md, 44_packet_ops.md R200 to R204 together: a record serialised and assembled by one block, its WIRE carried to a
second block of the same parameters that holds the same secret (or none, with the Unencrypted flag set), taken apart and parsed
there by BODY_DEC, is the same record, and neither block records a fault. For the Start at sequence number 1, the Reply at every even
one but 0, and the Continue at every odd one from 3 to 253. -/
def Obligations.AuthenticationEndToEnd : Prop :=
  ∀ s r : State, s.mem.wf = true → r.params = s.params →
    r.mem.secret = s.mem.secret → r.regs.secretPresent = s.regs.secretPresent →
    headerVerdict s.params s.regs.header = none → secretVerdict s.regs.hFlags s.regs.secretPresent = none →
    s.regs.hType = 1 → s.NoFaultRecorded → r.NoFaultRecorded →
    (s.regs.hSeq = 1 →
      startFieldVerdict s.params s.regs.asAction s.regs.privLvl s.regs.authenType s.regs.authenSvc = none →
      ∃ a b c d, exec .asEnc s = .next a ∧ exec .pktAsm a = .next b ∧
        exec .pktDis { r with mem := { r.mem with wire := b.mem.wire } } = .next c ∧ exec .bodyDec c = .next d ∧
        b.Ok ∧ d.Ok ∧ b.NoFaultRecorded ∧ d.NoFaultRecorded ∧ d.startRecord = s.startRecord) ∧
    (s.regs.hSeq.toNat % 2 = 0 → s.regs.hSeq ≠ 0 →
      replyFieldVerdict s.params s.regs.arStatus s.regs.arFlags = none →
      ∃ a b c d, exec .arEnc s = .next a ∧ exec .pktAsm a = .next b ∧
        exec .pktDis { r with mem := { r.mem with wire := b.mem.wire } } = .next c ∧ exec .bodyDec c = .next d ∧
        b.Ok ∧ d.Ok ∧ b.NoFaultRecorded ∧ d.NoFaultRecorded ∧ d.replyRecord = s.replyRecord) ∧
    (s.regs.hSeq.toNat % 2 = 1 → 3 ≤ s.regs.hSeq.toNat → s.regs.hSeq.toNat ≤ 253 →
      continueFieldVerdict s.params s.regs.acFlags = none →
      ∃ a b c d, exec .acEnc s = .next a ∧ exec .pktAsm a = .next b ∧
        exec .pktDis { r with mem := { r.mem with wire := b.mem.wire } } = .next c ∧ exec .bodyDec c = .next d ∧
        b.Ok ∧ d.Ok ∧ b.NoFaultRecorded ∧ d.NoFaultRecorded ∧ d.continueRecord = s.continueRecord)

/-! ### Invariants -/

/-- 10_state.md R28, R25, 60_exceptions.md R238, R239, R245: the invariant of the block holds at reset, whatever the parameters. -/
def Obligations.InvariantHoldsAtReset : Prop :=
  State.reset.Inv ∧ ∀ p : Params, (State.resetWith p).Inv

/-- 10_state.md R28, R25, 60_exceptions.md R238, R239, R245: every step, whatever transaction the host issues, keeps every buffer within
its cap and the status registers as a command leaves them. -/
def Obligations.StepKeepsInvariant : Prop :=
  ∀ s t : State, s.Inv → step s = .next t → t.Inv
end

