-- ==== Sys2Proof/Laws/State.lean ====
section
/-! SUPPORT. One lemma per field per update of the state, each true by rfl, so that no later proof unfolds a record update. -/

namespace Sys2Proof.Machine


/-! ### `State.complete` -/

@[simp] theorem State.complete_params (s : State) :
    (s.complete).params = s.params := rfl
@[simp] theorem State.complete_pending (s : State) :
    (s.complete).pending = s.pending := rfl
@[simp] theorem State.complete_answer (s : State) :
    (s.complete).answer = s.answer := rfl
@[simp] theorem State.complete_status (s : State) :
    (s.complete).regs.status = statusWord 0 (statusFlt s.regs.status) := rfl
@[simp] theorem State.complete_errA (s : State) :
    (s.complete).regs.errA = 0 := rfl
@[simp] theorem State.complete_errB (s : State) :
    (s.complete).regs.errB = 0 := rfl
@[simp] theorem State.complete_errF (s : State) :
    (s.complete).regs.errF = 0 := rfl
@[simp] theorem State.complete_hMajor (s : State) :
    (s.complete).regs.hMajor = s.regs.hMajor := rfl
@[simp] theorem State.complete_hMinor (s : State) :
    (s.complete).regs.hMinor = s.regs.hMinor := rfl
@[simp] theorem State.complete_hType (s : State) :
    (s.complete).regs.hType = s.regs.hType := rfl
@[simp] theorem State.complete_hSeq (s : State) :
    (s.complete).regs.hSeq = s.regs.hSeq := rfl
@[simp] theorem State.complete_hFlags (s : State) :
    (s.complete).regs.hFlags = s.regs.hFlags := rfl
@[simp] theorem State.complete_hSid (s : State) :
    (s.complete).regs.hSid = s.regs.hSid := rfl
@[simp] theorem State.complete_hLen (s : State) :
    (s.complete).regs.hLen = s.regs.hLen := rfl
@[simp] theorem State.complete_secretPresent (s : State) :
    (s.complete).regs.secretPresent = s.regs.secretPresent := rfl
@[simp] theorem State.complete_asAction (s : State) :
    (s.complete).regs.asAction = s.regs.asAction := rfl
@[simp] theorem State.complete_privLvl (s : State) :
    (s.complete).regs.privLvl = s.regs.privLvl := rfl
@[simp] theorem State.complete_authenType (s : State) :
    (s.complete).regs.authenType = s.regs.authenType := rfl
@[simp] theorem State.complete_authenSvc (s : State) :
    (s.complete).regs.authenSvc = s.regs.authenSvc := rfl
@[simp] theorem State.complete_arStatus (s : State) :
    (s.complete).regs.arStatus = s.regs.arStatus := rfl
@[simp] theorem State.complete_arFlags (s : State) :
    (s.complete).regs.arFlags = s.regs.arFlags := rfl
@[simp] theorem State.complete_acFlags (s : State) :
    (s.complete).regs.acFlags = s.regs.acFlags := rfl
@[simp] theorem State.complete_zqMethod (s : State) :
    (s.complete).regs.zqMethod = s.regs.zqMethod := rfl
@[simp] theorem State.complete_zrStatus (s : State) :
    (s.complete).regs.zrStatus = s.regs.zrStatus := rfl
@[simp] theorem State.complete_argCnt (s : State) :
    (s.complete).regs.argCnt = s.regs.argCnt := rfl
@[simp] theorem State.complete_mem (s : State) :
    (s.complete).mem = s.mem := rfl

/-! ### `State.enterError` -/

@[simp] theorem State.enterError_params (s : State) (e : CmdError) :
    (s.enterError e).params = s.params := rfl
@[simp] theorem State.enterError_pending (s : State) (e : CmdError) :
    (s.enterError e).pending = s.pending := rfl
@[simp] theorem State.enterError_answer (s : State) (e : CmdError) :
    (s.enterError e).answer = s.answer := rfl
@[simp] theorem State.enterError_status (s : State) (e : CmdError) :
    (s.enterError e).regs.status = statusWord e.kind.code true := rfl
@[simp] theorem State.enterError_errA (s : State) (e : CmdError) :
    (s.enterError e).regs.errA = BitVec.ofNat 32 e.a := rfl
@[simp] theorem State.enterError_errB (s : State) (e : CmdError) :
    (s.enterError e).regs.errB = BitVec.ofNat 32 e.b := rfl
@[simp] theorem State.enterError_errF (s : State) (e : CmdError) :
    (s.enterError e).regs.errF = BitVec.ofNat 8 e.f := rfl
@[simp] theorem State.enterError_hMajor (s : State) (e : CmdError) :
    (s.enterError e).regs.hMajor = s.regs.hMajor := rfl
@[simp] theorem State.enterError_hMinor (s : State) (e : CmdError) :
    (s.enterError e).regs.hMinor = s.regs.hMinor := rfl
@[simp] theorem State.enterError_hType (s : State) (e : CmdError) :
    (s.enterError e).regs.hType = s.regs.hType := rfl
@[simp] theorem State.enterError_hSeq (s : State) (e : CmdError) :
    (s.enterError e).regs.hSeq = s.regs.hSeq := rfl
@[simp] theorem State.enterError_hFlags (s : State) (e : CmdError) :
    (s.enterError e).regs.hFlags = s.regs.hFlags := rfl
@[simp] theorem State.enterError_hSid (s : State) (e : CmdError) :
    (s.enterError e).regs.hSid = s.regs.hSid := rfl
@[simp] theorem State.enterError_hLen (s : State) (e : CmdError) :
    (s.enterError e).regs.hLen = s.regs.hLen := rfl
@[simp] theorem State.enterError_secretPresent (s : State) (e : CmdError) :
    (s.enterError e).regs.secretPresent = s.regs.secretPresent := rfl
@[simp] theorem State.enterError_asAction (s : State) (e : CmdError) :
    (s.enterError e).regs.asAction = s.regs.asAction := rfl
@[simp] theorem State.enterError_privLvl (s : State) (e : CmdError) :
    (s.enterError e).regs.privLvl = s.regs.privLvl := rfl
@[simp] theorem State.enterError_authenType (s : State) (e : CmdError) :
    (s.enterError e).regs.authenType = s.regs.authenType := rfl
@[simp] theorem State.enterError_authenSvc (s : State) (e : CmdError) :
    (s.enterError e).regs.authenSvc = s.regs.authenSvc := rfl
@[simp] theorem State.enterError_arStatus (s : State) (e : CmdError) :
    (s.enterError e).regs.arStatus = s.regs.arStatus := rfl
@[simp] theorem State.enterError_arFlags (s : State) (e : CmdError) :
    (s.enterError e).regs.arFlags = s.regs.arFlags := rfl
@[simp] theorem State.enterError_acFlags (s : State) (e : CmdError) :
    (s.enterError e).regs.acFlags = s.regs.acFlags := rfl
@[simp] theorem State.enterError_zqMethod (s : State) (e : CmdError) :
    (s.enterError e).regs.zqMethod = s.regs.zqMethod := rfl
@[simp] theorem State.enterError_zrStatus (s : State) (e : CmdError) :
    (s.enterError e).regs.zrStatus = s.regs.zrStatus := rfl
@[simp] theorem State.enterError_argCnt (s : State) (e : CmdError) :
    (s.enterError e).regs.argCnt = s.regs.argCnt := rfl
@[simp] theorem State.enterError_mem (s : State) (e : CmdError) :
    (s.enterError e).mem = s.mem := rfl

theorem State.raise_eq (s : State) (k : ErrKind) (a b f : Nat) : s.raise k a b f = s.enterError ⟨k, a, b, f⟩ := rfl

/-! ### `State.clearFault` -/

@[simp] theorem State.clearFault_params (s : State) :
    (s.clearFault).params = s.params := rfl
@[simp] theorem State.clearFault_pending (s : State) :
    (s.clearFault).pending = s.pending := rfl
@[simp] theorem State.clearFault_answer (s : State) :
    (s.clearFault).answer = s.answer := rfl
@[simp] theorem State.clearFault_status (s : State) :
    (s.clearFault).regs.status = statusWord (statusErr s.regs.status) false := rfl
@[simp] theorem State.clearFault_errA (s : State) :
    (s.clearFault).regs.errA = s.regs.errA := rfl
@[simp] theorem State.clearFault_errB (s : State) :
    (s.clearFault).regs.errB = s.regs.errB := rfl
@[simp] theorem State.clearFault_errF (s : State) :
    (s.clearFault).regs.errF = s.regs.errF := rfl
@[simp] theorem State.clearFault_hMajor (s : State) :
    (s.clearFault).regs.hMajor = s.regs.hMajor := rfl
@[simp] theorem State.clearFault_hMinor (s : State) :
    (s.clearFault).regs.hMinor = s.regs.hMinor := rfl
@[simp] theorem State.clearFault_hType (s : State) :
    (s.clearFault).regs.hType = s.regs.hType := rfl
@[simp] theorem State.clearFault_hSeq (s : State) :
    (s.clearFault).regs.hSeq = s.regs.hSeq := rfl
@[simp] theorem State.clearFault_hFlags (s : State) :
    (s.clearFault).regs.hFlags = s.regs.hFlags := rfl
@[simp] theorem State.clearFault_hSid (s : State) :
    (s.clearFault).regs.hSid = s.regs.hSid := rfl
@[simp] theorem State.clearFault_hLen (s : State) :
    (s.clearFault).regs.hLen = s.regs.hLen := rfl
@[simp] theorem State.clearFault_secretPresent (s : State) :
    (s.clearFault).regs.secretPresent = s.regs.secretPresent := rfl
@[simp] theorem State.clearFault_asAction (s : State) :
    (s.clearFault).regs.asAction = s.regs.asAction := rfl
@[simp] theorem State.clearFault_privLvl (s : State) :
    (s.clearFault).regs.privLvl = s.regs.privLvl := rfl
@[simp] theorem State.clearFault_authenType (s : State) :
    (s.clearFault).regs.authenType = s.regs.authenType := rfl
@[simp] theorem State.clearFault_authenSvc (s : State) :
    (s.clearFault).regs.authenSvc = s.regs.authenSvc := rfl
@[simp] theorem State.clearFault_arStatus (s : State) :
    (s.clearFault).regs.arStatus = s.regs.arStatus := rfl
@[simp] theorem State.clearFault_arFlags (s : State) :
    (s.clearFault).regs.arFlags = s.regs.arFlags := rfl
@[simp] theorem State.clearFault_acFlags (s : State) :
    (s.clearFault).regs.acFlags = s.regs.acFlags := rfl
@[simp] theorem State.clearFault_zqMethod (s : State) :
    (s.clearFault).regs.zqMethod = s.regs.zqMethod := rfl
@[simp] theorem State.clearFault_zrStatus (s : State) :
    (s.clearFault).regs.zrStatus = s.regs.zrStatus := rfl
@[simp] theorem State.clearFault_argCnt (s : State) :
    (s.clearFault).regs.argCnt = s.regs.argCnt := rfl
@[simp] theorem State.clearFault_mem (s : State) :
    (s.clearFault).mem = s.mem := rfl

/-! ### `State.writeBuf` -/

@[simp] theorem State.writeBuf_params (s : State) (b : Buf) (bs : Bytes) :
    (s.writeBuf b bs).params = s.params := rfl
@[simp] theorem State.writeBuf_pending (s : State) (b : Buf) (bs : Bytes) :
    (s.writeBuf b bs).pending = s.pending := rfl
@[simp] theorem State.writeBuf_answer (s : State) (b : Buf) (bs : Bytes) :
    (s.writeBuf b bs).answer = s.answer := rfl
@[simp] theorem State.writeBuf_regs (s : State) (b : Buf) (bs : Bytes) :
    (s.writeBuf b bs).regs = s.regs := rfl
@[simp] theorem State.writeBuf_mem (s : State) (b : Buf) (bs : Bytes) :
    (s.writeBuf b bs).mem = s.mem.write b bs := rfl

/-! ### `State.resetBlock` -/

@[simp] theorem State.resetBlock_params (s : State) :
    (s.resetBlock).params = s.params := rfl
@[simp] theorem State.resetBlock_pending (s : State) :
    (s.resetBlock).pending = s.pending := rfl
@[simp] theorem State.resetBlock_answer (s : State) :
    (s.resetBlock).answer = s.answer := rfl
@[simp] theorem State.resetBlock_regs (s : State) :
    (s.resetBlock).regs = Regs.reset := rfl
@[simp] theorem State.resetBlock_mem (s : State) :
    (s.resetBlock).mem = Memory.reset := rfl

/-! ### `State.putStart` -/

@[simp] theorem State.putStart_params (s : State) (r : StartRecord) :
    (s.putStart r).params = s.params := rfl
@[simp] theorem State.putStart_pending (s : State) (r : StartRecord) :
    (s.putStart r).pending = s.pending := rfl
@[simp] theorem State.putStart_answer (s : State) (r : StartRecord) :
    (s.putStart r).answer = s.answer := rfl
@[simp] theorem State.putStart_status (s : State) (r : StartRecord) :
    (s.putStart r).regs.status = s.regs.status := rfl
@[simp] theorem State.putStart_errA (s : State) (r : StartRecord) :
    (s.putStart r).regs.errA = s.regs.errA := rfl
@[simp] theorem State.putStart_errB (s : State) (r : StartRecord) :
    (s.putStart r).regs.errB = s.regs.errB := rfl
@[simp] theorem State.putStart_errF (s : State) (r : StartRecord) :
    (s.putStart r).regs.errF = s.regs.errF := rfl
@[simp] theorem State.putStart_hMajor (s : State) (r : StartRecord) :
    (s.putStart r).regs.hMajor = s.regs.hMajor := rfl
@[simp] theorem State.putStart_hMinor (s : State) (r : StartRecord) :
    (s.putStart r).regs.hMinor = s.regs.hMinor := rfl
@[simp] theorem State.putStart_hType (s : State) (r : StartRecord) :
    (s.putStart r).regs.hType = s.regs.hType := rfl
@[simp] theorem State.putStart_hSeq (s : State) (r : StartRecord) :
    (s.putStart r).regs.hSeq = s.regs.hSeq := rfl
@[simp] theorem State.putStart_hFlags (s : State) (r : StartRecord) :
    (s.putStart r).regs.hFlags = s.regs.hFlags := rfl
@[simp] theorem State.putStart_hSid (s : State) (r : StartRecord) :
    (s.putStart r).regs.hSid = s.regs.hSid := rfl
@[simp] theorem State.putStart_hLen (s : State) (r : StartRecord) :
    (s.putStart r).regs.hLen = s.regs.hLen := rfl
@[simp] theorem State.putStart_secretPresent (s : State) (r : StartRecord) :
    (s.putStart r).regs.secretPresent = s.regs.secretPresent := rfl
@[simp] theorem State.putStart_asAction (s : State) (r : StartRecord) :
    (s.putStart r).regs.asAction = r.action := rfl
@[simp] theorem State.putStart_privLvl (s : State) (r : StartRecord) :
    (s.putStart r).regs.privLvl = r.privLvl := rfl
@[simp] theorem State.putStart_authenType (s : State) (r : StartRecord) :
    (s.putStart r).regs.authenType = r.authenType := rfl
@[simp] theorem State.putStart_authenSvc (s : State) (r : StartRecord) :
    (s.putStart r).regs.authenSvc = r.authenSvc := rfl
@[simp] theorem State.putStart_arStatus (s : State) (r : StartRecord) :
    (s.putStart r).regs.arStatus = s.regs.arStatus := rfl
@[simp] theorem State.putStart_arFlags (s : State) (r : StartRecord) :
    (s.putStart r).regs.arFlags = s.regs.arFlags := rfl
@[simp] theorem State.putStart_acFlags (s : State) (r : StartRecord) :
    (s.putStart r).regs.acFlags = s.regs.acFlags := rfl
@[simp] theorem State.putStart_zqMethod (s : State) (r : StartRecord) :
    (s.putStart r).regs.zqMethod = s.regs.zqMethod := rfl
@[simp] theorem State.putStart_zrStatus (s : State) (r : StartRecord) :
    (s.putStart r).regs.zrStatus = s.regs.zrStatus := rfl
@[simp] theorem State.putStart_argCnt (s : State) (r : StartRecord) :
    (s.putStart r).regs.argCnt = s.regs.argCnt := rfl
@[simp] theorem State.putStart_hbuf (s : State) (r : StartRecord) :
    (s.putStart r).mem.hbuf = s.mem.hbuf := rfl
@[simp] theorem State.putStart_wire (s : State) (r : StartRecord) :
    (s.putStart r).mem.wire = s.mem.wire := rfl
@[simp] theorem State.putStart_body (s : State) (r : StartRecord) :
    (s.putStart r).mem.body = s.mem.body := rfl
@[simp] theorem State.putStart_secret (s : State) (r : StartRecord) :
    (s.putStart r).mem.secret = s.mem.secret := rfl
@[simp] theorem State.putStart_user (s : State) (r : StartRecord) :
    (s.putStart r).mem.user = r.user := rfl
@[simp] theorem State.putStart_port (s : State) (r : StartRecord) :
    (s.putStart r).mem.port = r.port := rfl
@[simp] theorem State.putStart_remAddr (s : State) (r : StartRecord) :
    (s.putStart r).mem.remAddr = r.remAddr := rfl
@[simp] theorem State.putStart_content (s : State) (r : StartRecord) :
    (s.putStart r).mem.content = r.content := rfl
@[simp] theorem State.putStart_msg (s : State) (r : StartRecord) :
    (s.putStart r).mem.msg = s.mem.msg := rfl
@[simp] theorem State.putStart_data (s : State) (r : StartRecord) :
    (s.putStart r).mem.data = s.mem.data := rfl
@[simp] theorem State.putStart_args (s : State) (r : StartRecord) :
    (s.putStart r).mem.args = s.mem.args := rfl

/-! ### `State.putReply` -/

@[simp] theorem State.putReply_params (s : State) (r : ReplyRecord) :
    (s.putReply r).params = s.params := rfl
@[simp] theorem State.putReply_pending (s : State) (r : ReplyRecord) :
    (s.putReply r).pending = s.pending := rfl
@[simp] theorem State.putReply_answer (s : State) (r : ReplyRecord) :
    (s.putReply r).answer = s.answer := rfl
@[simp] theorem State.putReply_status (s : State) (r : ReplyRecord) :
    (s.putReply r).regs.status = s.regs.status := rfl
@[simp] theorem State.putReply_errA (s : State) (r : ReplyRecord) :
    (s.putReply r).regs.errA = s.regs.errA := rfl
@[simp] theorem State.putReply_errB (s : State) (r : ReplyRecord) :
    (s.putReply r).regs.errB = s.regs.errB := rfl
@[simp] theorem State.putReply_errF (s : State) (r : ReplyRecord) :
    (s.putReply r).regs.errF = s.regs.errF := rfl
@[simp] theorem State.putReply_hMajor (s : State) (r : ReplyRecord) :
    (s.putReply r).regs.hMajor = s.regs.hMajor := rfl
@[simp] theorem State.putReply_hMinor (s : State) (r : ReplyRecord) :
    (s.putReply r).regs.hMinor = s.regs.hMinor := rfl
@[simp] theorem State.putReply_hType (s : State) (r : ReplyRecord) :
    (s.putReply r).regs.hType = s.regs.hType := rfl
@[simp] theorem State.putReply_hSeq (s : State) (r : ReplyRecord) :
    (s.putReply r).regs.hSeq = s.regs.hSeq := rfl
@[simp] theorem State.putReply_hFlags (s : State) (r : ReplyRecord) :
    (s.putReply r).regs.hFlags = s.regs.hFlags := rfl
@[simp] theorem State.putReply_hSid (s : State) (r : ReplyRecord) :
    (s.putReply r).regs.hSid = s.regs.hSid := rfl
@[simp] theorem State.putReply_hLen (s : State) (r : ReplyRecord) :
    (s.putReply r).regs.hLen = s.regs.hLen := rfl
@[simp] theorem State.putReply_secretPresent (s : State) (r : ReplyRecord) :
    (s.putReply r).regs.secretPresent = s.regs.secretPresent := rfl
@[simp] theorem State.putReply_asAction (s : State) (r : ReplyRecord) :
    (s.putReply r).regs.asAction = s.regs.asAction := rfl
@[simp] theorem State.putReply_privLvl (s : State) (r : ReplyRecord) :
    (s.putReply r).regs.privLvl = s.regs.privLvl := rfl
@[simp] theorem State.putReply_authenType (s : State) (r : ReplyRecord) :
    (s.putReply r).regs.authenType = s.regs.authenType := rfl
@[simp] theorem State.putReply_authenSvc (s : State) (r : ReplyRecord) :
    (s.putReply r).regs.authenSvc = s.regs.authenSvc := rfl
@[simp] theorem State.putReply_arStatus (s : State) (r : ReplyRecord) :
    (s.putReply r).regs.arStatus = r.status := rfl
@[simp] theorem State.putReply_arFlags (s : State) (r : ReplyRecord) :
    (s.putReply r).regs.arFlags = r.flags := rfl
@[simp] theorem State.putReply_acFlags (s : State) (r : ReplyRecord) :
    (s.putReply r).regs.acFlags = s.regs.acFlags := rfl
@[simp] theorem State.putReply_zqMethod (s : State) (r : ReplyRecord) :
    (s.putReply r).regs.zqMethod = s.regs.zqMethod := rfl
@[simp] theorem State.putReply_zrStatus (s : State) (r : ReplyRecord) :
    (s.putReply r).regs.zrStatus = s.regs.zrStatus := rfl
@[simp] theorem State.putReply_argCnt (s : State) (r : ReplyRecord) :
    (s.putReply r).regs.argCnt = s.regs.argCnt := rfl
@[simp] theorem State.putReply_hbuf (s : State) (r : ReplyRecord) :
    (s.putReply r).mem.hbuf = s.mem.hbuf := rfl
@[simp] theorem State.putReply_wire (s : State) (r : ReplyRecord) :
    (s.putReply r).mem.wire = s.mem.wire := rfl
@[simp] theorem State.putReply_body (s : State) (r : ReplyRecord) :
    (s.putReply r).mem.body = s.mem.body := rfl
@[simp] theorem State.putReply_secret (s : State) (r : ReplyRecord) :
    (s.putReply r).mem.secret = s.mem.secret := rfl
@[simp] theorem State.putReply_user (s : State) (r : ReplyRecord) :
    (s.putReply r).mem.user = s.mem.user := rfl
@[simp] theorem State.putReply_port (s : State) (r : ReplyRecord) :
    (s.putReply r).mem.port = s.mem.port := rfl
@[simp] theorem State.putReply_remAddr (s : State) (r : ReplyRecord) :
    (s.putReply r).mem.remAddr = s.mem.remAddr := rfl
@[simp] theorem State.putReply_content (s : State) (r : ReplyRecord) :
    (s.putReply r).mem.content = s.mem.content := rfl
@[simp] theorem State.putReply_msg (s : State) (r : ReplyRecord) :
    (s.putReply r).mem.msg = r.msg := rfl
@[simp] theorem State.putReply_data (s : State) (r : ReplyRecord) :
    (s.putReply r).mem.data = r.data := rfl
@[simp] theorem State.putReply_args (s : State) (r : ReplyRecord) :
    (s.putReply r).mem.args = s.mem.args := rfl

/-! ### `State.putContinue` -/

@[simp] theorem State.putContinue_params (s : State) (r : ContinueRecord) :
    (s.putContinue r).params = s.params := rfl
@[simp] theorem State.putContinue_pending (s : State) (r : ContinueRecord) :
    (s.putContinue r).pending = s.pending := rfl
@[simp] theorem State.putContinue_answer (s : State) (r : ContinueRecord) :
    (s.putContinue r).answer = s.answer := rfl
@[simp] theorem State.putContinue_status (s : State) (r : ContinueRecord) :
    (s.putContinue r).regs.status = s.regs.status := rfl
@[simp] theorem State.putContinue_errA (s : State) (r : ContinueRecord) :
    (s.putContinue r).regs.errA = s.regs.errA := rfl
@[simp] theorem State.putContinue_errB (s : State) (r : ContinueRecord) :
    (s.putContinue r).regs.errB = s.regs.errB := rfl
@[simp] theorem State.putContinue_errF (s : State) (r : ContinueRecord) :
    (s.putContinue r).regs.errF = s.regs.errF := rfl
@[simp] theorem State.putContinue_hMajor (s : State) (r : ContinueRecord) :
    (s.putContinue r).regs.hMajor = s.regs.hMajor := rfl
@[simp] theorem State.putContinue_hMinor (s : State) (r : ContinueRecord) :
    (s.putContinue r).regs.hMinor = s.regs.hMinor := rfl
@[simp] theorem State.putContinue_hType (s : State) (r : ContinueRecord) :
    (s.putContinue r).regs.hType = s.regs.hType := rfl
@[simp] theorem State.putContinue_hSeq (s : State) (r : ContinueRecord) :
    (s.putContinue r).regs.hSeq = s.regs.hSeq := rfl
@[simp] theorem State.putContinue_hFlags (s : State) (r : ContinueRecord) :
    (s.putContinue r).regs.hFlags = s.regs.hFlags := rfl
@[simp] theorem State.putContinue_hSid (s : State) (r : ContinueRecord) :
    (s.putContinue r).regs.hSid = s.regs.hSid := rfl
@[simp] theorem State.putContinue_hLen (s : State) (r : ContinueRecord) :
    (s.putContinue r).regs.hLen = s.regs.hLen := rfl
@[simp] theorem State.putContinue_secretPresent (s : State) (r : ContinueRecord) :
    (s.putContinue r).regs.secretPresent = s.regs.secretPresent := rfl
@[simp] theorem State.putContinue_asAction (s : State) (r : ContinueRecord) :
    (s.putContinue r).regs.asAction = s.regs.asAction := rfl
@[simp] theorem State.putContinue_privLvl (s : State) (r : ContinueRecord) :
    (s.putContinue r).regs.privLvl = s.regs.privLvl := rfl
@[simp] theorem State.putContinue_authenType (s : State) (r : ContinueRecord) :
    (s.putContinue r).regs.authenType = s.regs.authenType := rfl
@[simp] theorem State.putContinue_authenSvc (s : State) (r : ContinueRecord) :
    (s.putContinue r).regs.authenSvc = s.regs.authenSvc := rfl
@[simp] theorem State.putContinue_arStatus (s : State) (r : ContinueRecord) :
    (s.putContinue r).regs.arStatus = s.regs.arStatus := rfl
@[simp] theorem State.putContinue_arFlags (s : State) (r : ContinueRecord) :
    (s.putContinue r).regs.arFlags = s.regs.arFlags := rfl
@[simp] theorem State.putContinue_acFlags (s : State) (r : ContinueRecord) :
    (s.putContinue r).regs.acFlags = r.flags := rfl
@[simp] theorem State.putContinue_zqMethod (s : State) (r : ContinueRecord) :
    (s.putContinue r).regs.zqMethod = s.regs.zqMethod := rfl
@[simp] theorem State.putContinue_zrStatus (s : State) (r : ContinueRecord) :
    (s.putContinue r).regs.zrStatus = s.regs.zrStatus := rfl
@[simp] theorem State.putContinue_argCnt (s : State) (r : ContinueRecord) :
    (s.putContinue r).regs.argCnt = s.regs.argCnt := rfl
@[simp] theorem State.putContinue_hbuf (s : State) (r : ContinueRecord) :
    (s.putContinue r).mem.hbuf = s.mem.hbuf := rfl
@[simp] theorem State.putContinue_wire (s : State) (r : ContinueRecord) :
    (s.putContinue r).mem.wire = s.mem.wire := rfl
@[simp] theorem State.putContinue_body (s : State) (r : ContinueRecord) :
    (s.putContinue r).mem.body = s.mem.body := rfl
@[simp] theorem State.putContinue_secret (s : State) (r : ContinueRecord) :
    (s.putContinue r).mem.secret = s.mem.secret := rfl
@[simp] theorem State.putContinue_user (s : State) (r : ContinueRecord) :
    (s.putContinue r).mem.user = s.mem.user := rfl
@[simp] theorem State.putContinue_port (s : State) (r : ContinueRecord) :
    (s.putContinue r).mem.port = s.mem.port := rfl
@[simp] theorem State.putContinue_remAddr (s : State) (r : ContinueRecord) :
    (s.putContinue r).mem.remAddr = s.mem.remAddr := rfl
@[simp] theorem State.putContinue_content (s : State) (r : ContinueRecord) :
    (s.putContinue r).mem.content = s.mem.content := rfl
@[simp] theorem State.putContinue_msg (s : State) (r : ContinueRecord) :
    (s.putContinue r).mem.msg = r.msg := rfl
@[simp] theorem State.putContinue_data (s : State) (r : ContinueRecord) :
    (s.putContinue r).mem.data = r.data := rfl
@[simp] theorem State.putContinue_args (s : State) (r : ContinueRecord) :
    (s.putContinue r).mem.args = s.mem.args := rfl

/-! ### `State.putAuthorReply` -/

@[simp] theorem State.putAuthorReply_params (s : State) (r : AuthorReplyRecord) :
    (s.putAuthorReply r).params = s.params := rfl
@[simp] theorem State.putAuthorReply_pending (s : State) (r : AuthorReplyRecord) :
    (s.putAuthorReply r).pending = s.pending := rfl
@[simp] theorem State.putAuthorReply_answer (s : State) (r : AuthorReplyRecord) :
    (s.putAuthorReply r).answer = s.answer := rfl
@[simp] theorem State.putAuthorReply_status (s : State) (r : AuthorReplyRecord) :
    (s.putAuthorReply r).regs.status = s.regs.status := rfl
@[simp] theorem State.putAuthorReply_errA (s : State) (r : AuthorReplyRecord) :
    (s.putAuthorReply r).regs.errA = s.regs.errA := rfl
@[simp] theorem State.putAuthorReply_errB (s : State) (r : AuthorReplyRecord) :
    (s.putAuthorReply r).regs.errB = s.regs.errB := rfl
@[simp] theorem State.putAuthorReply_errF (s : State) (r : AuthorReplyRecord) :
    (s.putAuthorReply r).regs.errF = s.regs.errF := rfl
@[simp] theorem State.putAuthorReply_hMajor (s : State) (r : AuthorReplyRecord) :
    (s.putAuthorReply r).regs.hMajor = s.regs.hMajor := rfl
@[simp] theorem State.putAuthorReply_hMinor (s : State) (r : AuthorReplyRecord) :
    (s.putAuthorReply r).regs.hMinor = s.regs.hMinor := rfl
@[simp] theorem State.putAuthorReply_hType (s : State) (r : AuthorReplyRecord) :
    (s.putAuthorReply r).regs.hType = s.regs.hType := rfl
@[simp] theorem State.putAuthorReply_hSeq (s : State) (r : AuthorReplyRecord) :
    (s.putAuthorReply r).regs.hSeq = s.regs.hSeq := rfl
@[simp] theorem State.putAuthorReply_hFlags (s : State) (r : AuthorReplyRecord) :
    (s.putAuthorReply r).regs.hFlags = s.regs.hFlags := rfl
@[simp] theorem State.putAuthorReply_hSid (s : State) (r : AuthorReplyRecord) :
    (s.putAuthorReply r).regs.hSid = s.regs.hSid := rfl
@[simp] theorem State.putAuthorReply_hLen (s : State) (r : AuthorReplyRecord) :
    (s.putAuthorReply r).regs.hLen = s.regs.hLen := rfl
@[simp] theorem State.putAuthorReply_secretPresent (s : State) (r : AuthorReplyRecord) :
    (s.putAuthorReply r).regs.secretPresent = s.regs.secretPresent := rfl
@[simp] theorem State.putAuthorReply_asAction (s : State) (r : AuthorReplyRecord) :
    (s.putAuthorReply r).regs.asAction = s.regs.asAction := rfl
@[simp] theorem State.putAuthorReply_privLvl (s : State) (r : AuthorReplyRecord) :
    (s.putAuthorReply r).regs.privLvl = s.regs.privLvl := rfl
@[simp] theorem State.putAuthorReply_authenType (s : State) (r : AuthorReplyRecord) :
    (s.putAuthorReply r).regs.authenType = s.regs.authenType := rfl
@[simp] theorem State.putAuthorReply_authenSvc (s : State) (r : AuthorReplyRecord) :
    (s.putAuthorReply r).regs.authenSvc = s.regs.authenSvc := rfl
@[simp] theorem State.putAuthorReply_arStatus (s : State) (r : AuthorReplyRecord) :
    (s.putAuthorReply r).regs.arStatus = s.regs.arStatus := rfl
@[simp] theorem State.putAuthorReply_arFlags (s : State) (r : AuthorReplyRecord) :
    (s.putAuthorReply r).regs.arFlags = s.regs.arFlags := rfl
@[simp] theorem State.putAuthorReply_acFlags (s : State) (r : AuthorReplyRecord) :
    (s.putAuthorReply r).regs.acFlags = s.regs.acFlags := rfl
@[simp] theorem State.putAuthorReply_zqMethod (s : State) (r : AuthorReplyRecord) :
    (s.putAuthorReply r).regs.zqMethod = s.regs.zqMethod := rfl
@[simp] theorem State.putAuthorReply_zrStatus (s : State) (r : AuthorReplyRecord) :
    (s.putAuthorReply r).regs.zrStatus = r.status := rfl
@[simp] theorem State.putAuthorReply_argCnt (s : State) (r : AuthorReplyRecord) :
    (s.putAuthorReply r).regs.argCnt = r.argCnt := rfl
@[simp] theorem State.putAuthorReply_hbuf (s : State) (r : AuthorReplyRecord) :
    (s.putAuthorReply r).mem.hbuf = s.mem.hbuf := rfl
@[simp] theorem State.putAuthorReply_wire (s : State) (r : AuthorReplyRecord) :
    (s.putAuthorReply r).mem.wire = s.mem.wire := rfl
@[simp] theorem State.putAuthorReply_body (s : State) (r : AuthorReplyRecord) :
    (s.putAuthorReply r).mem.body = s.mem.body := rfl
@[simp] theorem State.putAuthorReply_secret (s : State) (r : AuthorReplyRecord) :
    (s.putAuthorReply r).mem.secret = s.mem.secret := rfl
@[simp] theorem State.putAuthorReply_user (s : State) (r : AuthorReplyRecord) :
    (s.putAuthorReply r).mem.user = s.mem.user := rfl
@[simp] theorem State.putAuthorReply_port (s : State) (r : AuthorReplyRecord) :
    (s.putAuthorReply r).mem.port = s.mem.port := rfl
@[simp] theorem State.putAuthorReply_remAddr (s : State) (r : AuthorReplyRecord) :
    (s.putAuthorReply r).mem.remAddr = s.mem.remAddr := rfl
@[simp] theorem State.putAuthorReply_content (s : State) (r : AuthorReplyRecord) :
    (s.putAuthorReply r).mem.content = s.mem.content := rfl
@[simp] theorem State.putAuthorReply_msg (s : State) (r : AuthorReplyRecord) :
    (s.putAuthorReply r).mem.msg = r.msg := rfl
@[simp] theorem State.putAuthorReply_data (s : State) (r : AuthorReplyRecord) :
    (s.putAuthorReply r).mem.data = r.data := rfl
@[simp] theorem State.putAuthorReply_args (s : State) (r : AuthorReplyRecord) :
    (s.putAuthorReply r).mem.args = writeArgs s.mem.args 0 r.args := rfl

/-! ### `Regs.setHeader` -/

@[simp] theorem Regs.setHeader_status (x : Regs) (h : Header) :
    (x.setHeader h).status = x.status := rfl
@[simp] theorem Regs.setHeader_errA (x : Regs) (h : Header) :
    (x.setHeader h).errA = x.errA := rfl
@[simp] theorem Regs.setHeader_errB (x : Regs) (h : Header) :
    (x.setHeader h).errB = x.errB := rfl
@[simp] theorem Regs.setHeader_errF (x : Regs) (h : Header) :
    (x.setHeader h).errF = x.errF := rfl
@[simp] theorem Regs.setHeader_hMajor (x : Regs) (h : Header) :
    (x.setHeader h).hMajor = h.major := rfl
@[simp] theorem Regs.setHeader_hMinor (x : Regs) (h : Header) :
    (x.setHeader h).hMinor = h.minor := rfl
@[simp] theorem Regs.setHeader_hType (x : Regs) (h : Header) :
    (x.setHeader h).hType = h.ptype := rfl
@[simp] theorem Regs.setHeader_hSeq (x : Regs) (h : Header) :
    (x.setHeader h).hSeq = h.seq := rfl
@[simp] theorem Regs.setHeader_hFlags (x : Regs) (h : Header) :
    (x.setHeader h).hFlags = h.flags := rfl
@[simp] theorem Regs.setHeader_hSid (x : Regs) (h : Header) :
    (x.setHeader h).hSid = h.sid := rfl
@[simp] theorem Regs.setHeader_hLen (x : Regs) (h : Header) :
    (x.setHeader h).hLen = h.len := rfl
@[simp] theorem Regs.setHeader_secretPresent (x : Regs) (h : Header) :
    (x.setHeader h).secretPresent = x.secretPresent := rfl
@[simp] theorem Regs.setHeader_asAction (x : Regs) (h : Header) :
    (x.setHeader h).asAction = x.asAction := rfl
@[simp] theorem Regs.setHeader_privLvl (x : Regs) (h : Header) :
    (x.setHeader h).privLvl = x.privLvl := rfl
@[simp] theorem Regs.setHeader_authenType (x : Regs) (h : Header) :
    (x.setHeader h).authenType = x.authenType := rfl
@[simp] theorem Regs.setHeader_authenSvc (x : Regs) (h : Header) :
    (x.setHeader h).authenSvc = x.authenSvc := rfl
@[simp] theorem Regs.setHeader_arStatus (x : Regs) (h : Header) :
    (x.setHeader h).arStatus = x.arStatus := rfl
@[simp] theorem Regs.setHeader_arFlags (x : Regs) (h : Header) :
    (x.setHeader h).arFlags = x.arFlags := rfl
@[simp] theorem Regs.setHeader_acFlags (x : Regs) (h : Header) :
    (x.setHeader h).acFlags = x.acFlags := rfl
@[simp] theorem Regs.setHeader_zqMethod (x : Regs) (h : Header) :
    (x.setHeader h).zqMethod = x.zqMethod := rfl
@[simp] theorem Regs.setHeader_zrStatus (x : Regs) (h : Header) :
    (x.setHeader h).zrStatus = x.zrStatus := rfl
@[simp] theorem Regs.setHeader_argCnt (x : Regs) (h : Header) :
    (x.setHeader h).argCnt = x.argCnt := rfl
@[simp] theorem Regs.setHeader_header (x : Regs) (h : Header) :
    (x.setHeader h).header = h := rfl
@[simp] theorem Regs.header_major (x : Regs) :
    x.header.major = x.hMajor := rfl
@[simp] theorem Regs.header_minor (x : Regs) :
    x.header.minor = x.hMinor := rfl
@[simp] theorem Regs.header_ptype (x : Regs) :
    x.header.ptype = x.hType := rfl
@[simp] theorem Regs.header_seq (x : Regs) :
    x.header.seq = x.hSeq := rfl
@[simp] theorem Regs.header_flags (x : Regs) :
    x.header.flags = x.hFlags := rfl
@[simp] theorem Regs.header_sid (x : Regs) :
    x.header.sid = x.hSid := rfl
@[simp] theorem Regs.header_len (x : Regs) :
    x.header.len = x.hLen := rfl

end Sys2Proof.Machine
end

