-- ==== Sys2Proof/Laws/Ops.lean ====
section
/-! SUPPORT. What the shared operations can do, said once: the fields of STATUS, the order of checks, and how a command ends. -/

namespace Sys2Proof.Machine

@[simp] theorem statusErr_statusWord (c : BitVec 4) (f : Bool) : statusErr (statusWord c f) = c := by
  revert c f; decide

@[simp] theorem statusFlt_statusWord (c : BitVec 4) (f : Bool) : statusFlt (statusWord c f) = f := by
  revert c f; decide

@[simp] theorem statusReserved_statusWord (c : BitVec 4) (f : Bool) : statusReserved (statusWord c f) = 0 := by
  revert c f; decide

theorem ErrKind.code_ne_zero (k : ErrKind) : k.code ≠ 0 := by cases k <;> decide

theorem ErrKind.code_injective {k k' : ErrKind} (h : k.code = k'.code) : k = k' := by
  cases k <;> cases k' <;> first | rfl | exact absurd h (by decide)

theorem State.complete_ok (s : State) : s.complete.Ok := by simp [State.Ok]

theorem State.enterError_not_ok (s : State) (e : CmdError) : ¬(s.enterError e).Ok := by
  simpa [State.Ok] using e.kind.code_ne_zero

/-! ### The order of checks -/

@[simp] theorem firstFailure_nil : firstFailure [] = none := rfl

@[simp] theorem firstFailure_cons (f : Bool) (e : CmdError) (cs : List Check) :
    firstFailure ((f, e) :: cs) = if f then some e else firstFailure cs := rfl

theorem firstFailure_append (cs ds : List Check) :
    firstFailure (cs ++ ds) = (firstFailure cs).or (firstFailure ds) := by
  induction cs with
  | nil => rfl
  | cons c cs ih => obtain ⟨f, e⟩ := c; cases f <;> simp [ih]

/-- An error reported is the error of one of the checks. -/
theorem firstFailure_mem {cs : List Check} {e : CmdError} (h : firstFailure cs = some e) : (true, e) ∈ cs := by
  induction cs with
  | nil => cases h
  | cons c cs ih =>
    obtain ⟨f, e'⟩ := c
    cases f
    · exact List.mem_cons_of_mem _ (ih (by simpa using h))
    · simp at h; simp [h]

/-! ### How a command ends -/

theorem State.settle_of_none {s after : State} {cs : List Check} (h : firstFailure cs = none) :
    s.settle cs after = after.complete := by simp [State.settle, h]

theorem State.settle_of_some {s after : State} {cs : List Check} {e : CmdError} (h : firstFailure cs = some e) :
    s.settle cs after = s.enterError e := by simp [State.settle, h]

/-- A command ends in success with every check passed, or in the error of its first failing check. -/
theorem State.settle_cases (s after : State) (cs : List Check) :
    (firstFailure cs = none ∧ s.settle cs after = after.complete) ∨
    (∃ e, firstFailure cs = some e ∧ s.settle cs after = s.enterError e) := by
  cases h : firstFailure cs with
  | none => exact .inl ⟨rfl, State.settle_of_none h⟩
  | some e => exact .inr ⟨e, rfl, State.settle_of_some h⟩

/-- A command succeeds exactly when no check fails. -/
theorem State.settle_ok_iff (s after : State) (cs : List Check) :
    (s.settle cs after).Ok ↔ firstFailure cs = none := by
  obtain ⟨h, h'⟩ | ⟨e, h, h'⟩ := s.settle_cases after cs
  · rw [h']; exact ⟨fun _ => h, fun _ => after.complete_ok⟩
  · rw [h', h]
    exact ⟨fun hok => absurd hok (s.enterError_not_ok e), fun hn => by cases hn⟩

@[simp] theorem State.settle_nil (s after : State) : s.settle [] after = after.complete := rfl

theorem State.settle_pending {s after : State} {cs : List Check} (h : after.pending = s.pending) :
    (s.settle cs after).pending = s.pending := by
  obtain ⟨_, h'⟩ | ⟨e, _, h'⟩ := s.settle_cases after cs <;> simp [h', h]

theorem State.settle_params {s after : State} {cs : List Check} (h : after.params = s.params) :
    (s.settle cs after).params = s.params := by
  obtain ⟨_, h'⟩ | ⟨e, _, h'⟩ := s.settle_cases after cs <;> simp [h', h]

theorem State.settle_answer {s after : State} {cs : List Check} (h : after.answer = s.answer) :
    (s.settle cs after).answer = s.answer := by
  obtain ⟨_, h'⟩ | ⟨e, _, h'⟩ := s.settle_cases after cs <;> simp [h', h]

end Sys2Proof.Machine
end

