-- ==== Sys2Proof/Laws/Memory.lean ====
section
/-! SUPPORT. The buffer space: a read after a write, the bound on every buffer and that every write within the cap keeps it, and the
argument buffers. -/

namespace Sys2Proof.Machine

@[simp] theorem Memory.read_write_same (m : Memory) (b : Buf) (bs : Bytes) : (m.write b bs).read b = bs := by
  cases b <;> simp [Memory.read, Memory.write]

theorem Memory.read_write_other (m : Memory) {b b' : Buf} (bs : Bytes) (h : b' ≠ b) :
    (m.write b bs).read b' = m.read b' := by
  cases b <;> cases b' <;> first | rfl | exact absurd rfl h | skip
  rename_i i j
  have hij : (i : Nat) ≠ j := fun hij => h (by rw [Fin.ext hij])
  simp only [Memory.read, Memory.write]
  exact Vector.getElem_set_ne _ _ hij

/-- The canonical form says that every buffer is within its cap (10_state.md R28). -/
theorem Memory.wf_iff (m : Memory) : m.wf = true ↔ ∀ b, (m.read b).length ≤ b.cap := by
  have hargs : m.args.toList.all (fun bs => decide (bs.length ≤ Config.shortCap)) = true ↔
      ∀ i : Fin 255, (m.read (.arg i)).length ≤ Config.shortCap := by
    simp only [List.all_eq_true, decide_eq_true_eq, Memory.read]
    constructor
    · intro h i
      exact h _ (Vector.mem_toList_iff.2 (Vector.getElem_mem i.isLt))
    · intro h bs hbs
      obtain ⟨i, hi, rfl⟩ := Vector.mem_iff_getElem.1 (Vector.mem_toList_iff.1 hbs)
      exact h ⟨i, hi⟩
  simp only [Memory.wf, Bool.and_eq_true, hargs]
  constructor
  · rintro ⟨hf, ha⟩ b
    cases b
    case arg i => exact ha i
    all_goals exact of_decide_eq_true (List.all_eq_true.1 hf _ (by decide))
  · intro h
    exact ⟨List.all_eq_true.2 fun b _ => decide_eq_true (h b), fun i => h (.arg i)⟩

theorem Memory.wf_reset : Memory.reset.wf = true := by
  rw [Memory.wf_iff]
  intro b
  cases b <;> simp [Memory.reset, Memory.read]

/-- A write within the cap keeps the canonical form. -/
theorem Memory.wf_write {m : Memory} {b : Buf} {bs : Bytes} (hm : m.wf = true) (hb : bs.length ≤ b.cap) :
    (m.write b bs).wf = true := by
  rw [Memory.wf_iff] at hm ⊢
  intro b'
  by_cases h : b' = b
  · subst h; simpa using hb
  · rw [Memory.read_write_other _ _ h]; exact hm b'

@[simp] theorem memRead_length_le (bs : Bytes) (off n : Nat) : (memRead bs off n).length ≤ n := by
  simp [memRead]

/-- What `writeArgs` does to each argument buffer. -/
theorem writeArgs_getElem (vals : List Bytes) (args : Vector Bytes 255) (k : Nat) (i : Nat) (hi : i < 255) :
    (writeArgs args k vals)[i] = if k ≤ i then vals.getD (i - k) args[i] else args[i] := by
  induction vals generalizing args k with
  | nil => simp [writeArgs]
  | cons v vs ih =>
    rw [writeArgs, ih]
    rcases Nat.lt_trichotomy i k with h | h | h
    · simp [show ¬ k + 1 ≤ i by omega, show ¬ k ≤ i by omega, show k ≠ i by omega]
    · subst h; simp
    · obtain ⟨d, rfl⟩ : ∃ d, i = k + 1 + d := ⟨i - (k + 1), by omega⟩
      simp [show k + 1 + d - k = d + 1 by omega, show k + 1 + d - (k + 1) = d by omega, show k ≤ k + 1 + d by omega,
        show k ≠ k + 1 + d by omega]

end Sys2Proof.Machine
end

