-- ==== Sys2Proof/Laws/Bytes.lean ====
section
/-! SUPPORT. Numbers as bytes: the model's big-endian operations agree with the arithmetic of 00_scope.md R10, and invert each other. -/

namespace Sys2Proof.Machine

theorem extractByte_eq_ofNat {w : Nat} (v : BitVec w) (k : Nat) :
    v.extractLsb' k 8 = BitVec.ofNat 8 (v.toNat / 2 ^ k) := by
  simp [BitVec.extractLsb', Nat.shiftRight_eq_div_pow]

theorem be16_eq_wire16 (v : BitVec 16) : be16 v = wire16 v.toNat := by
  simp [be16, wire16, extractByte_eq_ofNat]

theorem be32_eq_wire32 (v : Word) : be32 v = wire32 v.toNat := by
  simp [be32, wire32, extractByte_eq_ofNat]

theorem toNat_append_byte {w : Nat} (a : BitVec w) (b : Byte) : (a ++ b).toNat = 256 * a.toNat + b.toNat := by
  rw [BitVec.toNat_append, ← Nat.shiftLeft_add_eq_or_of_lt b.isLt, Nat.shiftLeft_eq]
  omega

theorem unbe16_toNat (bs : Bytes) (i : Nat) : (unbe16 bs i).toNat = num16 bs i := by
  simp only [unbe16, toNat_append_byte, num16, num8, byteAt]

theorem unbe32_toNat (bs : Bytes) (i : Nat) : (unbe32 bs i).toNat = num32 bs i := by
  simp only [unbe32, toNat_append_byte, num32, num8, byteAt]
  omega

theorem num8_lt (b : Bytes) (i : Nat) : num8 b i < 256 := (b.getD i 0).isLt

theorem num16_lt (b : Bytes) (i : Nat) : num16 b i < 65536 := by
  have := num8_lt b i; have := num8_lt b (i + 1); unfold num16; omega

theorem num32_lt (b : Bytes) (i : Nat) : num32 b i < 2 ^ 32 := by
  have := num8_lt b i; have := num8_lt b (i + 1); have := num8_lt b (i + 2); have := num8_lt b (i + 3)
  unfold num32; omega

@[simp] theorem wire16_length (n : Nat) : (wire16 n).length = 2 := rfl

@[simp] theorem wire32_length (n : Nat) : (wire32 n).length = 4 := rfl

/-- Two bytes spell the number they were made from. -/
theorem wire16_value {n : Nat} (h : n < 65536) :
    256 * (BitVec.ofNat 8 (n / 2 ^ 8)).toNat + (BitVec.ofNat 8 n).toNat = n := by
  simp only [BitVec.toNat_ofNat]; omega

/-- Four bytes spell the number they were made from. -/
theorem wire32_value {n : Nat} (h : n < 2 ^ 32) :
    2 ^ 24 * (BitVec.ofNat 8 (n / 2 ^ 24)).toNat + 2 ^ 16 * (BitVec.ofNat 8 (n / 2 ^ 16)).toNat +
      2 ^ 8 * (BitVec.ofNat 8 (n / 2 ^ 8)).toNat + (BitVec.ofNat 8 n).toNat = n := by
  simp only [BitVec.toNat_ofNat]; omega

/-- A two-byte number's bytes are the bytes it was read from. -/
theorem wire16_of_bytes (a b : Byte) : wire16 (256 * a.toNat + b.toNat) = [a, b] := by
  have ha := a.isLt; have hb := b.isLt
  simp only [wire16, List.cons.injEq, and_true]
  constructor <;> apply BitVec.eq_of_toNat_eq <;> simp only [BitVec.toNat_ofNat] <;> omega

/-- A four-byte number's bytes are the bytes it was read from. -/
theorem wire32_of_bytes (a b c d : Byte) :
    wire32 (2 ^ 24 * a.toNat + 2 ^ 16 * b.toNat + 2 ^ 8 * c.toNat + d.toNat) = [a, b, c, d] := by
  have ha := a.isLt; have hb := b.isLt; have hc := c.isLt; have hd := d.isLt
  simp only [wire32, List.cons.injEq, and_true]
  refine ⟨?_, ?_, ?_, ?_⟩ <;> apply BitVec.eq_of_toNat_eq <;> simp only [BitVec.toNat_ofNat] <;> omega

theorem versionByte_eq (major minor : BitVec 4) : versionByte major minor = versionOf major minor := by
  revert major minor; decide

theorem version_major (major minor : BitVec 4) : (versionOf major minor).extractLsb' 4 4 = major := by
  revert major minor; decide

theorem version_minor (major minor : BitVec 4) : (versionOf major minor).extractLsb' 0 4 = minor := by
  revert major minor; decide

theorem versionOf_nibbles (v : Byte) : versionOf (v.extractLsb' 4 4) (v.extractLsb' 0 4) = v := by
  revert v; decide

theorem highNibble_eq (v : Byte) : v.extractLsb' 4 4 = BitVec.ofNat 4 (v.toNat / 16) := by
  revert v; decide

theorem lowNibble_eq (v : Byte) : v.extractLsb' 0 4 = BitVec.ofNat 4 (v.toNat % 16) := by
  revert v; decide

/-- The first `n` bytes and the rest are the whole. -/
theorem heads_append_drop (n : Nat) (b : Bytes) (h : n ≤ b.length) :
    (List.range n).map (fun i => b.getD i 0) ++ b.drop n = b := by
  induction n generalizing b with
  | zero => simp
  | succ n ih =>
    cases b with
    | nil => simp at h
    | cons x b => simpa [List.range_succ_eq_map, List.map_map, Function.comp_def] using ih b (by simpa using h)

end Sys2Proof.Machine
end

