-- ==== Sys2Proof/Laws/Cipher.lean ====
section
/-! SUPPORT. The hash and the keystream: lengths, the pad at each place, the prefix law, and that XOR undoes itself. -/

namespace Sys2Proof.Machine

@[simp] theorem le32_length (w : Word) : (le32 w).length = 4 := rfl

@[simp] theorem md5Output_length (x : Md5State) : (md5Output x).length = 16 := rfl

@[simp] theorem md5_length (m : Bytes) : (md5 m).length = 16 := rfl

theorem md5Pad_length (m : Bytes) : (md5Pad m).length % 64 = 0 := by
  simp [md5Pad, md5ZeroCount, le64]; omega

/-- Cutting a whole number of blocks loses nothing. -/
theorem md5Blocks_flatten (n : Nat) (bs : Bytes) (h : bs.length = 64 * n) :
    (md5Blocks n bs).flatten = bs ∧ ∀ b ∈ md5Blocks n bs, b.length = 64 := by
  induction n generalizing bs with
  | zero => simp [md5Blocks, List.eq_nil_of_length_eq_zero (by simpa using h)]
  | succ n ih =>
    obtain ⟨h1, h2⟩ := ih (bs.drop 64) (by simp; omega)
    refine ⟨by simp [md5Blocks, h1], ?_⟩
    simp only [md5Blocks, List.mem_cons]
    rintro b (rfl | hb)
    · simp; omega
    · exact h2 b hb

theorem padChain_length (m : Nat) {pad : Bytes} (h : pad.length = 16) : (padChain m pad).length = 16 * m := by
  induction m generalizing pad with
  | zero => rfl
  | succ m ih => simp [padChain, ih (pad := hash pad) (md5_length pad), h]; omega

/-- Byte `i` of a chain of pads lies in pad `i / 16`. -/
theorem padChain_getD (m : Nat) (pad : Bytes) (h : pad.length = 16) (i : Nat) (hi : i < 16 * m) :
    (padChain m pad).getD i 0 = (md5^[i / 16] pad).getD (i % 16) 0 := by
  induction m generalizing pad i with
  | zero => omega
  | succ m ih =>
    by_cases hlt : i < 16
    · rw [padChain, List.getD_append _ _ _ _ (by omega), Nat.div_eq_of_lt hlt, Nat.mod_eq_of_lt hlt]; rfl
    · obtain ⟨j, rfl⟩ : ∃ j, i = j + 16 := ⟨i - 16, by omega⟩
      rw [padChain, List.getD_append_right _ _ _ _ (by omega), h, Nat.add_sub_cancel,
        ih (hash pad) (md5_length pad) j (by omega), Nat.add_div_right _ (by omega), Nat.add_mod_right,
        Function.iterate_succ_apply]
      rfl

@[simp] theorem keystream_length (sid : Word) (secret : Bytes) (vb seq : Byte) (n : Nat) :
    (keystream sid secret vb seq n).length = n := by
  simp [keystream, padChain_length _ (md5_length _), hash]; omega

theorem cipherSeed_eq (sid : Word) (secret : Bytes) (vb seq : Byte) :
    cipherSeed sid secret vb seq = wire32 sid.toNat ++ secret ++ [vb, seq] := by
  simp [cipherSeed, be32_eq_wire32]

theorem keystream_getD (sid : Word) (secret : Bytes) (vb seq : Byte) (n i : Nat) (h : i < n) :
    (keystream sid secret vb seq n).getD i 0 = (padOf sid secret vb seq (i / 16)).getD (i % 16) 0 := by
  rw [keystream, List.getD_eq_getElem?_getD, List.getElem?_take_of_lt h, ← List.getD_eq_getElem?_getD,
    padChain_getD _ (hash _) (md5_length _) i (by omega), padOf, ← cipherSeed_eq]
  rfl

@[simp] theorem xorBytes_length (b k : Bytes) : (xorBytes b k).length = min b.length k.length := by
  simp [xorBytes]

theorem xorBytes_getD {b k : Bytes} {i : Nat} (hb : i < b.length) (hk : i < k.length) :
    (xorBytes b k).getD i 0 = b.getD i 0 ^^^ k.getD i 0 := by
  simp [xorBytes, List.getD_eq_getElem?_getD, List.getElem?_zipWith, List.getElem?_eq_getElem hb,
    List.getElem?_eq_getElem hk]

/-- `(x ^ k) ^ k = x`, bytewise. -/
theorem xorBytes_twice (b k : Bytes) (h : b.length ≤ k.length) : xorBytes (xorBytes b k) k = b := by
  induction b generalizing k with
  | nil => simp [xorBytes]
  | cons x b ih =>
    cases k with
    | nil => simp at h
    | cons y k =>
      have := ih k (by simpa using h)
      simp only [xorBytes, List.zipWith_cons_cons] at this ⊢
      rw [this, BitVec.xor_assoc, BitVec.xor_self, BitVec.xor_zero]

theorem flagUnencrypted_iff {f : Byte} : flagUnencrypted f = true ↔ f &&& 0x01 ≠ 0 := by
  simp [flagUnencrypted]

@[simp] theorem cipherBody_length (h : Header) (secret body : Bytes) :
    (cipherBody h secret body).length = body.length := by
  unfold cipherBody; split <;> simp

/-- The cipher undoes itself (41_body_cipher.md R116). -/
theorem cipherBody_twice (h : Header) (secret body : Bytes) :
    cipherBody h secret (cipherBody h secret body) = body := by
  unfold cipherBody
  split
  · rfl
  · simp only [xorBytes_length, keystream_length, Nat.min_self]
    exact xorBytes_twice _ _ (by simp)

/-- The cipher reads neither the type nor the length of the header, and of the flags only bit 0 (41_body_cipher.md R117). -/
theorem cipherBody_congr {h h' : Header} (secret body : Bytes) (hs : h.sid = h'.sid) (hM : h.major = h'.major)
    (hm : h.minor = h'.minor) (hq : h.seq = h'.seq) (hf : h.flags = h'.flags) :
    cipherBody h secret body = cipherBody h' secret body := by
  simp [cipherBody, hs, hM, hm, hq, hf]

theorem cipherBody_ciphered (h : Header) (secret body : Bytes) : Ciphered h secret body (cipherBody h secret body) := by
  refine ⟨cipherBody_length h secret body, fun hf => ?_, fun hf i hi => ?_⟩
  · rw [cipherBody, if_pos (flagUnencrypted_iff.2 hf)]
  · have hk : i < (keystream h.sid secret (versionByte h.major h.minor) h.seq body.length).length := by simpa using hi
    rw [cipherBody, if_neg (fun h => flagUnencrypted_iff.1 h hf), xorBytes_getD hi hk, keystream_getD _ _ _ _ _ _ hi, versionByte_eq]

end Sys2Proof.Machine
end

