-- ==== Sys2Proof/Laws/Records.lean ====
section
/-! SUPPORT. The order of each command's checks as one chain, and that laying a record out and reading it back are inverse. -/

namespace Sys2Proof.Machine

/-! ### Checks as chains -/

@[simp] theorem fieldCheck_failed (valid : Bool) (code fieldId : Nat) : (fieldCheck valid code fieldId).1 = !valid := rfl

theorem hdrChecks_verdict (p : Params) (h : Header) : firstFailure (hdrChecks p h) = headerVerdict p h := by
  cases h1 : validMajor p h.major <;> cases h2 : validMinor p h.minor <;> cases h3 : validType h.ptype <;>
    cases h4 : validFlags h.flags <;> simp [hdrChecks, fieldCheck, headerVerdict, h1, h2, h3, h4]

theorem configCheck_verdict (flags : Byte) (present : BitVec 1) :
    firstFailure [configCheck flags present] = secretVerdict flags present := by
  simp [configCheck, flagUnencrypted, secretVerdict]

theorem cursorChecks_verdict (need n l : Nat) : firstFailure (cursorChecks need n l) = cursorVerdict need n l := by
  simp only [cursorChecks, sizeCheck, lengthCheck, cursorVerdict, firstFailure_cons, firstFailure_nil,
    decide_eq_true_eq, bne_iff_ne, ne_comm (a := l), ne_comm (a := n)]

theorem startChecks_verdict (p : Params) (r : StartRecord) :
    firstFailure (startChecks p r) = startFieldVerdict p r.action r.privLvl r.authenType r.authenSvc := by
  cases h1 : validAction p r.action <;> by_cases h2 : 15 < r.privLvl.toNat <;> cases h3 : validAuthenType p r.authenType <;>
    cases h4 : validAuthenService p r.authenSvc <;>
    simp [startChecks, fieldCheck, startFieldVerdict, validPrivLvl, h1, h2, h3, h4]

theorem replyChecks_verdict (p : Params) (r : ReplyRecord) :
    firstFailure (replyChecks p r) = replyFieldVerdict p r.status r.flags := by
  cases h1 : validAuthenStatus p r.status <;> cases h2 : validReplyFlag p r.flags <;>
    simp [replyChecks, fieldCheck, replyFieldVerdict, h1, h2]

theorem continueChecks_verdict (p : Params) (r : ContinueRecord) :
    firstFailure (continueChecks p r) = continueFieldVerdict p r.flags := by
  cases h : validContinueFlag p r.flags <;> simp [continueChecks, fieldCheck, continueFieldVerdict, h]

theorem requestChecks_verdict (p : Params) (r : RequestRecord) :
    firstFailure (requestChecks p r) = requestFieldVerdict p r.method r.privLvl r.authenType r.authenSvc := by
  cases h1 : validAuthorMethod p r.method <;> by_cases h2 : 15 < r.privLvl.toNat <;> cases h3 : validAuthenType p r.authenType <;>
    cases h4 : validAuthenService p r.authenSvc <;>
    simp [requestChecks, fieldCheck, requestFieldVerdict, validPrivLvl, h1, h2, h3, h4]

/-! ### The header -/

theorem hdrPack_eq (h : Header) : hdrPack h = headerBytes h := by
  simp [hdrPack, headerBytes, versionByte_eq, be32_eq_wire32]

@[simp] theorem headerBytes_length (h : Header) : (headerBytes h).length = 12 := rfl

theorem hdrUnpack_eq (b : Bytes) : hdrUnpack b = headerIn b := by
  have h4 := unbe32_toNat b 4; have h8 := unbe32_toNat b 8
  simp only [hdrUnpack, headerIn, byteAt, highNibble_eq, lowNibble_eq, num8, Header.mk.injEq, true_and]
  exact ⟨by rw [← h4, BitVec.ofNat_toNat, BitVec.setWidth_eq], by rw [← h8, BitVec.ofNat_toNat, BitVec.setWidth_eq]⟩

/-- The header is read back from its bytes, whatever follows them. -/
theorem hdrUnpack_headerBytes (h : Header) (c : Bytes) : hdrUnpack (headerBytes h ++ c) = h := by
  obtain ⟨M, m, ty, sq, fl, sid, len⟩ := h
  have hs : unbe32 (headerBytes ⟨M, m, ty, sq, fl, sid, len⟩ ++ c) 4 = sid := by
    apply BitVec.eq_of_toNat_eq; rw [unbe32_toNat]; exact wire32_value sid.isLt
  have hl : unbe32 (headerBytes ⟨M, m, ty, sq, fl, sid, len⟩ ++ c) 8 = len := by
    apply BitVec.eq_of_toNat_eq; rw [unbe32_toNat]; exact wire32_value len.isLt
  simp only [hdrUnpack, hs, hl]
  simp [headerBytes, byteAt, version_major, version_minor]

/-- Twelve bytes or more begin with the bytes of the header they hold. -/
theorem headerBytes_hdrUnpack (b : Bytes) (h : 12 ≤ b.length) : headerBytes (hdrUnpack b) ++ b.drop 12 = b := by
  simp only [headerBytes, hdrUnpack, unbe32_toNat, num32, num8, versionOf_nibbles, wire32_of_bytes, byteAt]
  exact heads_append_drop 12 b h

theorem headerVerdict_congr (p : Params) {h h' : Header} (hM : h.major = h'.major) (hm : h.minor = h'.minor)
    (ht : h.ptype = h'.ptype) (hf : h.flags = h'.flags) : headerVerdict p h = headerVerdict p h' := by
  simp [headerVerdict, hM, hm, ht, hf]

/-! ### Reading a field from a body laid out in pieces -/

/-- The bytes after what came before. -/
theorem memRead_append (pre a post : Bytes) {off n : Nat} (ho : pre.length = off) (hn : a.length = n) :
    memRead (pre ++ (a ++ post)) off n = a := by
  subst ho hn
  simp [memRead]

theorem memRead_end (pre a : Bytes) {off n : Nat} (ho : pre.length = off) (hn : a.length = n) :
    memRead (pre ++ a) off n = a := by
  simpa using memRead_append pre a [] ho hn

theorem lenByte_toNat {b : Bytes} (h : b.length ≤ 255) : (lenByte b).toNat = b.length := by
  simp [lenByte]; omega

theorem lenByte_of_length {b : Bytes} {v : Byte} (h : b.length = v.toNat) : lenByte b = v := by
  simp [lenByte, h]

/-- Two consecutive pieces are one. -/
theorem memRead_memRead (b : Bytes) (off n m : Nat) : memRead b off n ++ memRead b (off + n) m = memRead b off (n + m) := by
  simp only [memRead, List.take_add, List.drop_drop]

theorem memRead_all (b : Bytes) (off n : Nat) (h : off + n = b.length) : memRead b off n = b.drop off := by
  simp only [memRead]
  exact List.take_of_length_le (by simp; omega)

theorem memRead_length {b : Bytes} {off n : Nat} (h : off + n ≤ b.length) : (memRead b off n).length = n := by
  simp [memRead]; omega

/-! ### The Start -/

theorem packStart_eq (r : StartRecord) : packStart r = startBody r := rfl

theorem startBody_length (r : StartRecord) :
    (startBody r).length = 8 + r.user.length + r.port.length + r.remAddr.length + r.content.length := by
  simp [startBody]; omega

theorem startNeed_eq (b : Bytes) : startNeed b = 8 + num8 b 4 + num8 b 5 + num8 b 6 + num8 b 7 := rfl

theorem startNeed_startBody {r : StartRecord} (hu : r.user.length ≤ 255) (hp : r.port.length ≤ 255)
    (hr : r.remAddr.length ≤ 255) (hc : r.content.length ≤ 255) : startNeed (startBody r) = (startBody r).length := by
  rw [startBody_length]
  simp [startNeed, startBody, byteAt, lenByte_toNat hu, lenByte_toNat hp, lenByte_toNat hr, lenByte_toNat hc]

theorem unpackStart_startBody {r : StartRecord} (hu : r.user.length ≤ 255) (hp : r.port.length ≤ 255)
    (hr : r.remAddr.length ≤ 255) (hc : r.content.length ≤ 255) : unpackStart (startBody r) = r := by
  obtain ⟨a, pv, ty, sv, u, po, ra, co⟩ := r
  have b4 : byteAt (startBody ⟨a, pv, ty, sv, u, po, ra, co⟩) 4 = lenByte u := rfl
  have b5 : byteAt (startBody ⟨a, pv, ty, sv, u, po, ra, co⟩) 5 = lenByte po := rfl
  have b6 : byteAt (startBody ⟨a, pv, ty, sv, u, po, ra, co⟩) 6 = lenByte ra := rfl
  have b7 : byteAt (startBody ⟨a, pv, ty, sv, u, po, ra, co⟩) 7 = lenByte co := rfl
  simp only [unpackStart, b4, b5, b6, b7, lenByte_toNat hu, lenByte_toNat hp, lenByte_toNat hr, lenByte_toNat hc,
    StartRecord.mk.injEq]
  refine ⟨rfl, rfl, rfl, rfl, ?_, ?_, ?_, ?_⟩
  · rw [startBody, List.append_assoc, List.append_assoc, List.append_assoc]
    exact memRead_append _ u _ rfl rfl
  · rw [startBody, List.append_assoc, List.append_assoc]
    exact memRead_append _ po _ (by simp; omega) rfl
  · rw [startBody, List.append_assoc]
    exact memRead_append _ ra _ (by simp; omega) rfl
  · exact memRead_end _ co (by simp; omega) rfl

/-- A body whose lengths add up is the layout of the record it holds. -/
theorem startBody_unpackStart {b : Bytes} (h : startNeed b = b.length) : startBody (unpackStart b) = b := by
  have hn := h
  rw [startNeed_eq] at hn
  simp only [num8] at hn
  have h8 : 8 ≤ b.length := by omega
  simp only [startBody, unpackStart, byteAt]
  rw [lenByte_of_length (memRead_length (by omega)), lenByte_of_length (memRead_length (by omega)),
    lenByte_of_length (memRead_length (by omega)), lenByte_of_length (memRead_length (by omega))]
  rw [List.append_assoc, List.append_assoc, List.append_assoc, memRead_memRead, memRead_memRead, memRead_memRead,
    memRead_all _ _ _ (by omega)]
  exact heads_append_drop 8 b h8

/-! ### The Reply -/

theorem len16_toNat {b : Bytes} (h : b.length ≤ 65535) : (len16 b).toNat = b.length := by
  simp [len16]; omega

theorem packReply_eq {r : ReplyRecord} (hm : r.msg.length ≤ 65535) (hd : r.data.length ≤ 65535) :
    packReply r = replyBody r := by
  rw [packReply, replyBody, be16_eq_wire16, be16_eq_wire16, len16_toNat hm, len16_toNat hd]

theorem replyBody_length (r : ReplyRecord) : (replyBody r).length = 6 + r.msg.length + r.data.length := by
  simp [replyBody]; omega

theorem replyNeed_eq (b : Bytes) : replyNeed b = 6 + num16 b 2 + num16 b 4 := by
  simp [replyNeed, unbe16_toNat]

theorem num16_replyBody_msg {r : ReplyRecord} (hm : r.msg.length ≤ 65535) : num16 (replyBody r) 2 = r.msg.length :=
  wire16_value (by omega)

theorem num16_replyBody_data {r : ReplyRecord} (hd : r.data.length ≤ 65535) : num16 (replyBody r) 4 = r.data.length :=
  wire16_value (by omega)

theorem replyNeed_replyBody {r : ReplyRecord} (hm : r.msg.length ≤ 65535) (hd : r.data.length ≤ 65535) :
    replyNeed (replyBody r) = (replyBody r).length := by
  rw [replyNeed_eq, num16_replyBody_msg hm, num16_replyBody_data hd, replyBody_length]

theorem unpackReply_replyBody {r : ReplyRecord} (hm : r.msg.length ≤ 65535) (hd : r.data.length ≤ 65535) :
    unpackReply (replyBody r) = r := by
  have h2 := num16_replyBody_msg hm
  have h4 := num16_replyBody_data hd
  simp only [unpackReply, unbe16_toNat, h2, h4]
  obtain ⟨st, fl, msg, data⟩ := r
  simp only [ReplyRecord.mk.injEq]
  refine ⟨rfl, rfl, ?_, ?_⟩
  · rw [replyBody, List.append_assoc _ msg]
    exact memRead_append _ msg _ rfl rfl
  · exact memRead_end _ data (by simp; omega) rfl

theorem replyBody_unpackReply {b : Bytes} (h : replyNeed b = b.length) : replyBody (unpackReply b) = b := by
  have hn := h
  rw [replyNeed_eq] at hn
  have h6 : 6 ≤ b.length := by omega
  simp only [replyBody, unpackReply, unbe16_toNat]
  rw [memRead_length (by omega), memRead_length (by omega), List.append_assoc _ (memRead b 6 _), memRead_memRead,
    memRead_all _ _ _ (by omega)]
  simp only [num16, num8, wire16_of_bytes, byteAt]
  exact heads_append_drop 6 b h6

theorem unpackReply_bounds (b : Bytes) :
    (unpackReply b).msg.length ≤ 65535 ∧ (unpackReply b).data.length ≤ 65535 := by
  have h2 := num16_lt b 2
  have h4 := num16_lt b 4
  simp only [unpackReply, unbe16_toNat]
  exact ⟨(memRead_length_le b _ _).trans (by omega), (memRead_length_le b _ _).trans (by omega)⟩

/-! ### The Continue -/

theorem packContinue_eq {r : ContinueRecord} (hm : r.msg.length ≤ 65535) (hd : r.data.length ≤ 65535) :
    packContinue r = continueBody r := by
  rw [packContinue, continueBody, be16_eq_wire16, be16_eq_wire16, len16_toNat hm, len16_toNat hd]

theorem continueBody_length (r : ContinueRecord) : (continueBody r).length = 5 + r.msg.length + r.data.length := by
  simp [continueBody]; omega

theorem continueNeed_eq (b : Bytes) : continueNeed b = 5 + num16 b 0 + num16 b 2 := by
  simp [continueNeed, unbe16_toNat]

theorem num16_continueBody_msg {r : ContinueRecord} (hm : r.msg.length ≤ 65535) :
    num16 (continueBody r) 0 = r.msg.length :=
  wire16_value (by omega)

theorem num16_continueBody_data {r : ContinueRecord} (hd : r.data.length ≤ 65535) :
    num16 (continueBody r) 2 = r.data.length :=
  wire16_value (by omega)

theorem continueNeed_continueBody {r : ContinueRecord} (hm : r.msg.length ≤ 65535) (hd : r.data.length ≤ 65535) :
    continueNeed (continueBody r) = (continueBody r).length := by
  rw [continueNeed_eq, num16_continueBody_msg hm, num16_continueBody_data hd, continueBody_length]

theorem unpackContinue_continueBody {r : ContinueRecord} (hm : r.msg.length ≤ 65535) (hd : r.data.length ≤ 65535) :
    unpackContinue (continueBody r) = r := by
  have h0 := num16_continueBody_msg hm
  have h2 := num16_continueBody_data hd
  simp only [unpackContinue, unbe16_toNat, h0, h2]
  obtain ⟨fl, msg, data⟩ := r
  simp only [ContinueRecord.mk.injEq]
  refine ⟨rfl, ?_, ?_⟩
  · rw [continueBody, List.append_assoc _ msg]
    exact memRead_append _ msg _ rfl rfl
  · exact memRead_end _ data (by simp; omega) rfl

theorem continueBody_unpackContinue {b : Bytes} (h : continueNeed b = b.length) :
    continueBody (unpackContinue b) = b := by
  have hn := h
  rw [continueNeed_eq] at hn
  have h5 : 5 ≤ b.length := by omega
  simp only [continueBody, unpackContinue, unbe16_toNat]
  rw [memRead_length (by omega), memRead_length (by omega), List.append_assoc _ (memRead b 5 _), memRead_memRead,
    memRead_all _ _ _ (by omega)]
  simp only [num16, num8, wire16_of_bytes, byteAt]
  exact heads_append_drop 5 b h5

theorem unpackContinue_bounds (b : Bytes) :
    (unpackContinue b).msg.length ≤ 65535 ∧ (unpackContinue b).data.length ≤ 65535 := by
  have h0 := num16_lt b 0
  have h2 := num16_lt b 2
  simp only [unpackContinue, unbe16_toNat]
  exact ⟨(memRead_length_le b _ _).trans (by omega), (memRead_length_le b _ _).trans (by omega)⟩

theorem unpackStart_bounds (b : Bytes) :
    (unpackStart b).user.length ≤ 255 ∧ (unpackStart b).port.length ≤ 255 ∧
      (unpackStart b).remAddr.length ≤ 255 ∧ (unpackStart b).content.length ≤ 255 := by
  have h (v : Byte) (off : Nat) : (memRead b off v.toNat).length ≤ 255 :=
    (memRead_length_le b off v.toNat).trans (by have := v.isLt; omega)
  exact ⟨h _ _, h _ _, h _ _, h _ _⟩

/-! ### The Authorization records -/

theorem argsInUse_eq (s : State) : s.argsInUse = argsBelow s.mem s.regs.argCnt.toNat := by
  have hn := s.regs.argCnt.isLt
  apply List.ext_getElem?
  intro i
  by_cases hi : i < s.regs.argCnt.toNat
  · rw [State.argsInUse, List.getElem?_take_of_lt hi]
    by_cases h255 : i < 255
    · simp [argsBelow, hi, h255]
    · omega
  · rw [List.getElem?_eq_none (by simp [State.argsInUse]; omega), List.getElem?_eq_none (by simp [argsBelow]; omega)]

theorem packRequest_eq (s : State) : packRequest s.requestRecord = requestBody s.regs s.mem := by
  simp only [packRequest, State.requestRecord, argsInUse_eq, requestBody]
  rfl

theorem authorReplyTable_eq (b : Bytes) (h : 2 + num8 b 1 ≤ b.length) :
    authorReplyTable b = (List.range (num8 b 1)).map fun i => num8 b (2 + i) := by
  apply List.ext_getElem?
  intro i
  simp only [authorReplyTable, memRead, List.getElem?_map, List.getElem?_take, List.getElem?_drop]
  change Option.map _ (if i < num8 b 1 then _ else _) = _
  by_cases hi : i < num8 b 1
  · have h2 : 2 + i < b.length := by omega
    rw [if_pos hi, List.getElem?_range hi, List.getElem?_eq_getElem h2, Option.map_some, Option.map_some]
    simp only [num8, List.getD_eq_getElem?_getD, List.getElem?_eq_getElem h2, Option.getD_some]
  · rw [if_neg hi, List.getElem?_eq_none (by simpa using hi)]
    rfl

/-- Cutting at the lengths of the pieces gives the pieces back. -/
theorem cutBytes_flatten (args : List Bytes) : cutBytes (args.map List.length) args.flatten = args := by
  induction args with
  | nil => rfl
  | cons a args ih => simp [cutBytes, ih]

/-- Pieces cut from a sequence of the summed length have the listed lengths and join to the sequence. -/
theorem cutBytes_spec (ls : List Nat) (bs : Bytes) (h : ls.sum = bs.length) :
    (cutBytes ls bs).map List.length = ls ∧ (cutBytes ls bs).flatten = bs := by
  induction ls generalizing bs with
  | nil => simp [cutBytes, List.eq_nil_of_length_eq_zero (by simpa using h.symm)]
  | cons l ls ih =>
    simp only [List.sum_cons] at h
    obtain ⟨h1, h2⟩ := ih (bs.drop l) (by simp; omega)
    simp [cutBytes, h1, h2]; omega

/-- A two-byte number laid out between other bytes is read back. -/
theorem num16_at (pre : Bytes) (n : Nat) (post : Bytes) (h : n < 65536) : num16 (pre ++ (wire16 n ++ post)) pre.length = n := by
  simp only [num16, num8]
  rw [List.getD_append_right pre _ _ pre.length (by omega), List.getD_append_right pre _ _ (pre.length + 1) (by omega), Nat.sub_self, Nat.add_sub_cancel_left]
  exact wire16_value h

theorem authorReplyBody_length (status : Byte) (args : List Bytes) (msg data : Bytes) :
    (authorReplyBody status args msg data).length = 6 + args.length + msg.length + data.length + args.flatten.length := by
  simp only [authorReplyBody, List.length_append, List.length_cons, List.length_nil, List.length_map, wire16_length]; omega

/-- An Authorization Reply laid out is read back (43_author_codec.md R184, R185). -/
theorem authorReplyBody_spec {status : Byte} {args : List Bytes} {msg data : Bytes} (ha : args.length ≤ 255) (hl : ∀ a ∈ args, a.length ≤ 255)
    (hm : msg.length ≤ 65535) (hd : data.length ≤ 65535) :
    let b := authorReplyBody status args msg data
    num8 b 1 = args.length ∧ num16 b (2 + args.length) = msg.length ∧ num16 b (4 + args.length) = data.length ∧
      unpackAuthorReply b = ⟨status, BitVec.ofNat 8 args.length, msg, data, args⟩ ∧
      tableSum b args.length = args.flatten.length := by
  intro b
  have hb : authorReplyBody status args msg data = [status, BitVec.ofNat 8 args.length] ++ (args.map lenByte ++ (wire16 msg.length ++ (wire16 data.length ++ (msg ++ (data ++ args.flatten))))) := by
    simp [authorReplyBody]
  have n : num8 (authorReplyBody status args msg data) 1 = args.length := by
    show (BitVec.ofNat 8 args.length).toNat = _; simp; omega
  have hmm : num16 (authorReplyBody status args msg data) (2 + args.length) = msg.length := by
    have := num16_at ([status, BitVec.ofNat 8 args.length] ++ args.map lenByte) msg.length (wire16 data.length ++ (msg ++ (data ++ args.flatten))) (by omega)
    rw [List.append_assoc, ← hb] at this
    have e : ([status, BitVec.ofNat 8 args.length] ++ args.map lenByte).length = 2 + args.length := by simp; omega
    rwa [e] at this
  have hdd : num16 (authorReplyBody status args msg data) (4 + args.length) = data.length := by
    have := num16_at ([status, BitVec.ofNat 8 args.length] ++ args.map lenByte ++ wire16 msg.length) data.length (msg ++ (data ++ args.flatten)) (by omega)
    rw [List.append_assoc, List.append_assoc, ← hb] at this
    have e : ([status, BitVec.ofNat 8 args.length] ++ args.map lenByte ++ wire16 msg.length).length = 4 + args.length := by simp; omega
    rwa [e] at this
  have ht : authorReplyTable (authorReplyBody status args msg data) = args.map List.length := by
    simp only [authorReplyTable, show (byteAt (authorReplyBody status args msg data) 1).toNat = args.length from n]
    rw [hb, memRead_append [status, BitVec.ofNat 8 args.length] (args.map lenByte) _ (off := 2) (n := args.length) rfl (by simp), List.map_map]
    apply List.map_congr_left
    intro a h
    exact lenByte_toNat (hl a h)
  have hs : tableSum (authorReplyBody status args msg data) args.length = args.flatten.length := by
    have := authorReplyTable_eq (authorReplyBody status args msg data) (by rw [n, authorReplyBody_length]; omega)
    rw [tableSum]
    rw [n, ht] at this
    rw [← this, List.length_flatten]
  refine ⟨n, hmm, hdd, ?_, hs⟩
  show unpackAuthorReply (authorReplyBody status args msg data) = _
  simp only [unpackAuthorReply, show (byteAt (authorReplyBody status args msg data) 1).toNat = args.length from n, unbe16_toNat, hmm, hdd, ht, AuthorReplyRecord.mk.injEq]
  refine ⟨rfl, rfl, ?_, ?_, ?_⟩
  · have := memRead_append ([status, BitVec.ofNat 8 args.length] ++ args.map lenByte ++ wire16 msg.length ++ wire16 data.length) msg (data ++ args.flatten) (off := 6 + args.length) (n := msg.length) (by simp; omega) rfl
    simpa [authorReplyBody] using this
  · have := memRead_append ([status, BitVec.ofNat 8 args.length] ++ args.map lenByte ++ wire16 msg.length ++ wire16 data.length ++ msg) data args.flatten (off := 6 + args.length + msg.length) (n := data.length) (by simp; omega) rfl
    simpa [authorReplyBody] using this
  · have e : authorReplyBody status args msg data = ([status, BitVec.ofNat 8 args.length] ++ args.map lenByte ++ wire16 msg.length ++ wire16 data.length ++ msg ++ data) ++ args.flatten := by simp [authorReplyBody]
    have e2 : ([status, BitVec.ofNat 8 args.length] ++ args.map lenByte ++ wire16 msg.length ++ wire16 data.length ++ msg ++ data).length = 6 + args.length + msg.length + data.length := by simp; omega
    rw [e, ← e2, List.drop_left]
    exact cutBytes_flatten args

end Sys2Proof.Machine
end

