-- ==== Sys2Proof/Laws/Commands.lean ====
section
/-! SUPPORT. What each command does, said once through its chain of checks: the error of the first failing check, or its writes. -/

namespace Sys2Proof.Machine

/-- The end of a command whose checks come to a verdict. -/
def State.conclude (s : State) (verdict : Option CmdError) (after : State) : State :=
  match verdict with
  | some e => s.enterError e
  | none => after.complete

@[simp] theorem State.conclude_none (s after : State) : s.conclude none after = after.complete := rfl

@[simp] theorem State.conclude_some (s after : State) (e : CmdError) : s.conclude (some e) after = s.enterError e := rfl

theorem State.settle_eq (s after : State) (cs : List Check) : s.settle cs after = s.conclude (firstFailure cs) after := rfl

theorem State.conclude_ok_iff (s after : State) (v : Option CmdError) : (s.conclude v after).Ok ↔ v = none := by
  cases v with
  | none => exact ⟨fun _ => rfl, fun _ => after.complete_ok⟩
  | some e => exact ⟨fun h => absurd h (s.enterError_not_ok e), fun h => by cases h⟩

theorem exec_hdrEnc (s : State) : exec .hdrEnc s = .next (s.conclude (headerVerdict s.params s.regs.header)
    (s.writeBuf .hbuf (headerBytes s.regs.header))) := by
  simp only [exec, execHdrEnc, State.settle_eq, hdrChecks_verdict, hdrPack_eq]

/-- The checks of HDR_DEC in their order (40_header_codec.md R97). -/
def hdrDecVerdict (p : Params) (b : Bytes) : Option CmdError :=
  if b.length ≠ 12 then some ⟨.invalidSize, 12, b.length, 0⟩ else headerVerdict p (hdrUnpack b)

theorem exec_hdrDec (s : State) : exec .hdrDec s = .next (s.conclude (hdrDecVerdict s.params s.mem.hbuf)
    { s with regs := s.regs.setHeader (hdrUnpack s.mem.hbuf) }) := by
  simp [exec, execHdrDec, State.settle_eq, hdrSizeCheck, hdrChecks_verdict, hdrDecVerdict]

theorem exec_cipher (s : State) : exec .cipher s =
    .next (s.conclude (secretVerdict s.regs.hFlags s.regs.secretPresent)
      (s.writeBuf .body (cipherBody s.regs.header s.mem.secret s.mem.body))) := by
  simp only [exec, execCipher, State.settle_eq, configCheck_verdict]

theorem exec_asEnc (s : State) : exec .asEnc s =
    .next (s.conclude (startFieldVerdict s.params s.regs.asAction s.regs.privLvl s.regs.authenType s.regs.authenSvc)
      (s.writeBuf .body (startBody s.startRecord))) := by
  simp only [exec, execAsEnc, State.settle_eq, startChecks_verdict, packStart_eq]; rfl

theorem exec_arEnc (s : State) : exec .arEnc s =
    .next (s.conclude (replyFieldVerdict s.params s.regs.arStatus s.regs.arFlags)
      (s.writeBuf .body (packReply s.replyRecord))) := by
  simp only [exec, execArEnc, State.settle_eq, replyChecks_verdict]; rfl

theorem exec_acEnc (s : State) : exec .acEnc s = .next (s.conclude (continueFieldVerdict s.params s.regs.acFlags)
      (s.writeBuf .body (packContinue s.continueRecord))) := by
  simp only [exec, execAcEnc, State.settle_eq, continueChecks_verdict]; rfl

theorem exec_zqEnc (s : State) : exec .zqEnc s =
    .next (s.conclude (requestFieldVerdict s.params s.regs.zqMethod s.regs.privLvl s.regs.authenType s.regs.authenSvc)
      (s.writeBuf .body (requestBody s.regs s.mem))) := by
  simp only [exec, execZqEnc, State.settle_eq, requestChecks_verdict, packRequest_eq]; rfl

theorem parseStart_eq (s : State) : s.parseStart =
    s.conclude (startVerdict s.params s.mem.body s.regs.hLen.toNat) (s.putStart (unpackStart s.mem.body)) := by
  simp only [State.parseStart, State.settle_eq, sizeCheck, firstFailure_cons, firstFailure_append, startChecks_verdict,
    cursorChecks_verdict, startVerdict, decide_eq_true_eq, startNeed_eq]
  congr 1
  split
  · rfl
  · change Option.or (startFieldVerdict _ (s.mem.body.getD 0 0) (s.mem.body.getD 1 0) (s.mem.body.getD 2 0)
      (s.mem.body.getD 3 0)) _ = _
    cases startFieldVerdict s.params (s.mem.body.getD 0 0) (s.mem.body.getD 1 0) (s.mem.body.getD 2 0)
      (s.mem.body.getD 3 0) <;> rfl

theorem parseReply_eq (s : State) : s.parseReply =
    s.conclude (replyVerdict s.params s.mem.body s.regs.hLen.toNat) (s.putReply (unpackReply s.mem.body)) := by
  simp only [State.parseReply, State.settle_eq, sizeCheck, firstFailure_cons, firstFailure_append, replyChecks_verdict,
    cursorChecks_verdict, replyVerdict, decide_eq_true_eq, replyNeed_eq]
  congr 1
  split
  · rfl
  · change Option.or (replyFieldVerdict _ (s.mem.body.getD 0 0) (s.mem.body.getD 1 0)) _ = _
    cases replyFieldVerdict s.params (s.mem.body.getD 0 0) (s.mem.body.getD 1 0) <;> rfl

theorem parseContinue_eq (s : State) : s.parseContinue =
    s.conclude (continueVerdict s.params s.mem.body s.regs.hLen.toNat) (s.putContinue (unpackContinue s.mem.body)) := by
  simp only [State.parseContinue, State.settle_eq, sizeCheck, firstFailure_cons, firstFailure_append,
    continueChecks_verdict, cursorChecks_verdict, continueVerdict, decide_eq_true_eq, continueNeed_eq]
  congr 1
  split
  · rfl
  · change Option.or (continueFieldVerdict _ (s.mem.body.getD 4 0)) _ = _
    cases continueFieldVerdict s.params (s.mem.body.getD 4 0) <;> rfl

theorem authorReplyNeed_eq (b : Bytes) (h : 6 + num8 b 1 ≤ b.length) :
    authorReplyNeed b =
      6 + num8 b 1 + num16 b (2 + num8 b 1) + num16 b (4 + num8 b 1) + tableSum b (num8 b 1) := by
  have hn : (byteAt b 1).toNat = num8 b 1 := rfl
  simp only [authorReplyNeed, hn, unbe16_toNat, authorReplyTable_eq b (by omega), tableSum]

theorem parseAuthorReply_eq (s : State) : s.parseAuthorReply =
    s.conclude (authorReplyVerdict s.params s.regs.hSeq s.mem.body s.regs.hLen.toNat)
      (s.putAuthorReply (unpackAuthorReply s.mem.body)) := by
  simp only [State.parseAuthorReply, State.settle_eq, firstFailure_append, cursorChecks_verdict]
  congr 1
  simp only [authorReplyGate, sizeCheck, fieldCheck, firstFailure_cons, firstFailure_nil, authorReplyVerdict,
    decide_eq_true_eq, Bool.not_eq_true']
  have hB : (unpackAuthorReply s.mem.body).argCnt.toNat = num8 s.mem.body 1 := rfl
  have hS : (unpackAuthorReply s.mem.body).status = s.mem.body.getD 0 0 := rfl
  have hs : (s.mem.body.getD 0 0).toNat = num8 s.mem.body 0 := rfl
  rw [hB, hS, hs]
  by_cases h : s.mem.body.length < 6 + num8 s.mem.body 1
  · split_ifs <;> rfl
  · rw [authorReplyNeed_eq _ (by omega)]
    split_ifs <;> rfl

theorem exec_pktAsm (s : State) : exec .pktAsm s =
    .next (s.conclude ((headerVerdict s.params s.regs.header).or (secretVerdict s.regs.hFlags s.regs.secretPresent))
      { s with
        regs := { s.regs with hLen := s.outHeader.len }
        mem := s.mem.write .wire (headerBytes s.outHeader ++ cipherBody s.outHeader s.mem.secret s.mem.body) }) := by
  simp only [exec, execPktAsm, State.settle_eq, firstFailure_append, hdrChecks_verdict, configCheck_verdict, hdrPack_eq]

theorem exec_pktDis (s : State) : exec .pktDis s =
    .next (s.conclude (packetVerdict s.params s.mem.wire s.regs.secretPresent)
      { s with
        regs := s.regs.setHeader (hdrUnpack s.mem.wire)
        mem := s.mem.write .body (cipherBody (hdrUnpack s.mem.wire) s.mem.secret
          (memRead s.mem.wire 12 (hdrUnpack s.mem.wire).len.toNat)) }) := by
  have hl : (hdrUnpack s.mem.wire).len.toNat = num32 s.mem.wire 8 := unbe32_toNat _ _
  have hc (c d : Check) : [c, d] = [c] ++ [d] := rfl
  have hf : (hdrUnpack s.mem.wire).flags = s.mem.wire.getD 3 0 := rfl
  simp only [exec, execPktDis, State.settle_eq, hc, sizeCheck, lengthCheck, firstFailure_cons, firstFailure_nil,
    firstFailure_append, hdrChecks_verdict, configCheck_verdict, packetVerdict, decide_eq_true_eq, bne_iff_ne, hl,
    ne_comm (a := num32 s.mem.wire 8), ← hdrUnpack_eq]
  congr 2
  split
  · rfl
  · cases headerVerdict s.params (hdrUnpack s.mem.wire)
    · simp only [Option.none_or, hf]
      split <;> rfl
    · rfl

end Sys2Proof.Machine
end

