-- ==== Sys2Proof/Laws/Forms.lean ====
section
/-! SUPPORT. One form for every command: how it ends, and what it leaves alone; every memory operation keeps the bound on
buffers. -/

namespace Sys2Proof.Machine

/-- An error of a command by the table of 60_exceptions.md R247, with a field id of R233 or 0. -/
abbrev ErrorOf (i : Instr) (e : CmdError) : Prop := canEndIn i e.kind = true ∧ e.f ≤ 13

theorem headerVerdict_error {p h e} (i : Instr) (hi : canEndIn i .invalidField = true)
    (H : headerVerdict p h = some e) : ErrorOf i e := by
  unfold headerVerdict at H; split_ifs at H <;> cases H <;> exact ⟨hi, Nat.le_of_ble_eq_true rfl⟩

theorem secretVerdict_error {f pr e} (i : Instr) (hi : canEndIn i .configError = true)
    (H : secretVerdict f pr = some e) : ErrorOf i e := by
  unfold secretVerdict at H; split_ifs at H; cases H; exact ⟨hi, Nat.le_of_ble_eq_true rfl⟩

theorem cursorVerdict_error {a b c e} (i : Instr) (hi : canEndIn i .invalidSize = true) (hj : canEndIn i .lengthMismatch = true)
    (H : cursorVerdict a b c = some e) : ErrorOf i e := by
  unfold cursorVerdict at H; split_ifs at H <;> cases H <;> first | exact ⟨hi, Nat.le_of_ble_eq_true rfl⟩ | exact ⟨hj,
      Nat.le_of_ble_eq_true rfl⟩

theorem startFieldVerdict_error {p a b c d e} (i : Instr) (hi : canEndIn i .invalidField = true)
    (H : startFieldVerdict p a b c d = some e) : ErrorOf i e := by
  unfold startFieldVerdict at H; split_ifs at H <;> cases H <;> exact ⟨hi, Nat.le_of_ble_eq_true rfl⟩

theorem requestFieldVerdict_error {p a b c d e} (i : Instr) (hi : canEndIn i .invalidField = true)
    (H : requestFieldVerdict p a b c d = some e) : ErrorOf i e := by
  unfold requestFieldVerdict at H; split_ifs at H <;> cases H <;> exact ⟨hi, Nat.le_of_ble_eq_true rfl⟩

theorem replyFieldVerdict_error {p a b e} (i : Instr) (hi : canEndIn i .invalidField = true)
    (H : replyFieldVerdict p a b = some e) : ErrorOf i e := by
  unfold replyFieldVerdict at H; split_ifs at H <;> cases H <;> exact ⟨hi, Nat.le_of_ble_eq_true rfl⟩

theorem continueFieldVerdict_error {p a e} (i : Instr) (hi : canEndIn i .invalidField = true)
    (H : continueFieldVerdict p a = some e) : ErrorOf i e := by
  unfold continueFieldVerdict at H; split_ifs at H; cases H; exact ⟨hi, Nat.le_of_ble_eq_true rfl⟩

theorem startVerdict_error {p b l e} (i : Instr) (h1 : canEndIn i .invalidSize = true)
    (h2 : canEndIn i .invalidField = true) (h3 : canEndIn i .lengthMismatch = true)

    (H : startVerdict p b l = some e) : ErrorOf i e := by
  unfold startVerdict at H; split_ifs at H
  · cases H; exact ⟨h1, Nat.le_of_ble_eq_true rfl⟩
  · split at H
    · cases H; exact startFieldVerdict_error i h2 ‹_›
    · exact cursorVerdict_error i h1 h3 H

theorem replyVerdict_error {p b l e} (i : Instr) (h1 : canEndIn i .invalidSize = true)
    (h2 : canEndIn i .invalidField = true) (h3 : canEndIn i .lengthMismatch = true)

    (H : replyVerdict p b l = some e) : ErrorOf i e := by
  unfold replyVerdict at H; split_ifs at H
  · cases H; exact ⟨h1, Nat.le_of_ble_eq_true rfl⟩
  · split at H
    · cases H; exact replyFieldVerdict_error i h2 ‹_›
    · exact cursorVerdict_error i h1 h3 H

theorem continueVerdict_error {p b l e} (i : Instr) (h1 : canEndIn i .invalidSize = true)
    (h2 : canEndIn i .invalidField = true) (h3 : canEndIn i .lengthMismatch = true)

    (H : continueVerdict p b l = some e) : ErrorOf i e := by
  unfold continueVerdict at H; split_ifs at H
  · cases H; exact ⟨h1, Nat.le_of_ble_eq_true rfl⟩
  · split at H
    · cases H; exact continueFieldVerdict_error i h2 ‹_›
    · exact cursorVerdict_error i h1 h3 H

theorem authorReplyVerdict_error {p s b l e} (i : Instr) (h1 : canEndIn i .invalidSize = true)
    (h2 : canEndIn i .invalidField = true) (h3 : canEndIn i .lengthMismatch = true) (h4 : canEndIn i .unsupportedType = true)

    (H : authorReplyVerdict p s b l = some e) : ErrorOf i e := by
  unfold authorReplyVerdict at H; dsimp only at H; split_ifs at H
  · cases H; exact ⟨h4, Nat.le_of_ble_eq_true rfl⟩
  · cases H; exact ⟨h1, Nat.le_of_ble_eq_true rfl⟩
  · cases H; exact ⟨h2, Nat.le_of_ble_eq_true rfl⟩
  · cases H; exact ⟨h1, Nat.le_of_ble_eq_true rfl⟩
  · exact cursorVerdict_error i h1 h3 H

theorem packetVerdict_error {p w b e}
    (H : packetVerdict p w b = some e) : ErrorOf .pktDis e := by
  unfold packetVerdict at H; split at H
  · cases H; exact ⟨rfl, Nat.le_of_ble_eq_true rfl⟩
  · split at H
    · cases H; exact headerVerdict_error .pktDis rfl ‹_›
    · split at H
      · cases H; exact ⟨rfl, Nat.le_of_ble_eq_true rfl⟩
      · exact secretVerdict_error .pktDis rfl H

theorem hdrDecVerdict_error {p w e}
    (H : hdrDecVerdict p w = some e) : ErrorOf .hdrDec e := by
  unfold hdrDecVerdict at H; split_ifs at H
  · cases H; exact ⟨rfl, Nat.le_of_ble_eq_true rfl⟩
  · exact headerVerdict_error .hdrDec rfl H

theorem bodyRoute_error {a b e}
    (H : bodyRoute a b = .refuse e) : ErrorOf .bodyDec e := by
  unfold bodyRoute at H; split_ifs at H <;> cases H <;> exact ⟨rfl, Nat.le_of_ble_eq_true rfl⟩

/-- Everything a command can do: with verdict `v` it ends as `conclude` says,
    and what its writes `after` leave alone (30_encoding.md R72,
10_state.md R28, 60_exceptions.md R237 to R239, R247). -/
structure CommandForm (i : Instr) (s : State) (v : Option CmdError) (after : State) : Prop where
  eq : exec i s = .next (s.conclude v after)
  err : ∀ e, v = some e → ErrorOf i e
  pending : after.pending = s.pending
  params : after.params = s.params
  answer : after.answer = s.answer
  flt : statusFlt after.regs.status = (statusFlt s.regs.status && decide (i ≠ .clrf ∧ i ≠ .srst))
  regs : ∀ r, r.isStatus = false → writesReg i r = false → after.regs.read r = s.regs.read r
  mem : ∀ b, writesBuf i b = false → after.mem.read b = s.mem.read b
  wf : s.mem.wf = true → v = none → after.mem.wf = true

/-- The bound on buffers, buffer by buffer (10_state.md R27, R28). -/
theorem Memory.wf_iff_fields (m : Memory) : m.wf = true ↔ m.hbuf.length ≤ 2^32-1 ∧ m.wire.length ≤ 2^32+11 ∧
    m.body.length ≤ 2^32-1 ∧ m.secret.length ≤ 2^32-1 ∧
   m.user.length ≤ 255 ∧ m.port.length ≤ 255 ∧ m.remAddr.length ≤ 255 ∧ m.content.length ≤ 255 ∧ m.msg.length ≤ 65535 ∧
       m.data.length ≤ 65535 ∧ ∀ i : Fin 255, m.args[i.val].length ≤ 255 := by
  rw [Memory.wf_iff]
  constructor
  · intro h
    exact ⟨h .hbuf, h .wire, h .body, h .secret, h .user, h .port, h .remAddr, h .content, h .msg, h .data, fun i => h (.arg i)⟩
  · rintro ⟨a,b,c,d,e,f,g,h,i,j,k⟩ bb
    cases bb <;> first | assumption | exact k _

theorem State.putStart_wf {s : State} (b : Bytes) (h : s.mem.wf = true) : (s.putStart (unpackStart b)).mem.wf = true := by
  have := unpackStart_bounds b
  rw [Memory.wf_iff_fields] at *
  simp only [State.putStart]; tauto

theorem State.putReply_wf {s : State} (b : Bytes) (h : s.mem.wf = true) : (s.putReply (unpackReply b)).mem.wf = true := by
  have := unpackReply_bounds b
  rw [Memory.wf_iff_fields] at *
  simp only [State.putReply]; tauto

theorem State.putContinue_wf {s : State} (b : Bytes) (h : s.mem.wf = true)
    : (s.putContinue (unpackContinue b)).mem.wf = true := by
  have := unpackContinue_bounds b
  rw [Memory.wf_iff_fields] at *
  simp only [State.putContinue]; tauto

theorem cutBytes_bound (ls : List Nat) (bs : Bytes) (h : ∀ l ∈ ls, l ≤ 255) : ∀ a ∈ cutBytes ls bs, a.length ≤ 255 := by
  induction ls generalizing bs with
  | nil => intro a ha; cases ha
  | cons l ls ih =>
    intro a ha
    simp only [cutBytes, List.mem_cons] at ha
    rcases ha with rfl | ha
    · have := h l (by simp)
      simp; omega
    · exact ih _ (fun l hl => h l (by simp [hl])) a ha

theorem State.putAuthorReply_wf {s : State} (b : Bytes) (h : s.mem.wf = true)
    : (s.putAuthorReply (unpackAuthorReply b)).mem.wf = true := by
  rw [Memory.wf_iff_fields] at *
  obtain ⟨h1,h2,h3,h4,h5,h6,h7,h8,h9,h10,h11⟩ := h
  refine ⟨h1,h2,h3,h4,h5,h6,h7,h8,?_,?_,?_⟩
  · show (memRead _ _ _).length ≤ 65535
    refine le_trans (memRead_length_le _ _ _) ?_
    omega
  · show (memRead _ _ _).length ≤ 65535
    refine le_trans (memRead_length_le _ _ _) ?_
    omega
  · intro i
    show (writeArgs s.mem.args 0 _)[i.val].length ≤ 255
    rw [writeArgs_getElem]
    split
    · have : ∀ a ∈ (unpackAuthorReply b).args, a.length ≤ 255 := by
        apply cutBytes_bound
        intro l hl
        simp only [authorReplyTable, List.mem_map] at hl
        obtain ⟨x, _, rfl⟩ := hl
        omega
      rcases lt_or_ge (i.val - 0) (unpackAuthorReply b).args.length with hl | hl
      · rw [List.getD_eq_getElem _ _ hl]; exact this _ (List.getElem_mem hl)
      · rw [List.getD_eq_default _ _ hl]; exact h11 i
    · exact h11 i

theorem Regs.setHeader_read (x : Regs) (h : Header) (r : Reg) (hr : r.isHeader = false)
    : (x.setHeader h).read r = x.read r := by
  cases r <;> first | rfl | exact absurd hr (by decide)

theorem State.writeBuf_wf {s : State} {b bs} (h : s.mem.wf = true) (hb : bs.length ≤ b.cap) : (s.writeBuf b bs).mem.wf = true :=
  Memory.wf_write h hb

/-- A command whose writes leave STATUS alone. -/
theorem CommandForm.ofKept {i s v after} (hi : (i ≠ .clrf ∧ i ≠ .srst)) (eq : exec i s = .next (s.conclude v after))
  (err : ∀ e, v = some e → ErrorOf i e) (pending : after.pending = s.pending) (params : after.params = s.params)
      (answer : after.answer = s.answer)
  (flt : after.regs.status = s.regs.status)
  (regs : ∀ r, r.isStatus = false → writesReg i r = false → after.regs.read r = s.regs.read r)
  (mem : ∀ b, writesBuf i b = false → after.mem.read b = s.mem.read b)
  (wf : s.mem.wf = true → v = none → after.mem.wf = true) : CommandForm i s v after :=
  ⟨eq, err, pending, params, answer, by rw [flt]; simp [hi], regs, mem, wf⟩

theorem parseStart_form (i) (hi : i = .asDec ∨ i = .bodyDec) (s : State) (h : exec i s = .next s.parseStart) :
   CommandForm i s (startVerdict s.params s.mem.body s.regs.hLen.toNat) (s.putStart (unpackStart s.mem.body)) := by
  rcases hi with rfl | rfl <;>
  refine CommandForm.ofKept (by decide) (h.trans (congrArg Host.Outcome.next (parseStart_eq s)))
      (fun e => startVerdict_error _ rfl rfl rfl) rfl rfl rfl rfl ?_ ?_ (fun h _ => State.putStart_wf _ h) <;>
  · intro r; cases r <;> first | (intros; rfl) | simp [writesReg, writesBuf]

theorem parseReply_form (i) (hi : i = .arDec ∨ i = .bodyDec) (s : State) (h : exec i s = .next s.parseReply) :
   CommandForm i s (replyVerdict s.params s.mem.body s.regs.hLen.toNat) (s.putReply (unpackReply s.mem.body)) := by
  rcases hi with rfl | rfl <;>
  refine CommandForm.ofKept (by decide) (h.trans (congrArg Host.Outcome.next (parseReply_eq s)))
      (fun e => replyVerdict_error _ rfl rfl rfl) rfl rfl rfl rfl ?_ ?_ (fun h _ => State.putReply_wf _ h) <;>
  · intro r; cases r <;> first | (intros; rfl) | simp [writesReg, writesBuf]

theorem parseContinue_form (i) (hi : i = .acDec ∨ i = .bodyDec) (s : State) (h : exec i s = .next s.parseContinue) :
   CommandForm i s (continueVerdict s.params s.mem.body s.regs.hLen.toNat) (s.putContinue (unpackContinue s.mem.body)) := by
  rcases hi with rfl | rfl <;>
  refine CommandForm.ofKept (by decide) (h.trans (congrArg Host.Outcome.next (parseContinue_eq s)))
      (fun e => continueVerdict_error _ rfl rfl rfl) rfl rfl rfl rfl ?_ ?_ (fun h _ => State.putContinue_wf _ h) <;>
  · intro r; cases r <;> first | (intros; rfl) | simp [writesReg, writesBuf]

theorem parseAuthorReply_form (i) (hi : i = .zrDec ∨ i = .bodyDec) (s : State) (h : exec i s = .next s.parseAuthorReply) :
   CommandForm i s (authorReplyVerdict s.params s.regs.hSeq s.mem.body s.regs.hLen.toNat)
       (s.putAuthorReply (unpackAuthorReply s.mem.body)) := by
  rcases hi with rfl | rfl <;>
  refine CommandForm.ofKept (by decide) (h.trans (congrArg Host.Outcome.next (parseAuthorReply_eq s)))
      (fun e => authorReplyVerdict_error _ rfl rfl rfl rfl) rfl rfl rfl rfl ?_ ?_ (fun h _ => State.putAuthorReply_wf _ h) <;>
  · intro r; cases r <;> first | (intros; rfl) | simp [writesReg, writesBuf, Buf.isArg]

theorem packReply_length (r : ReplyRecord) : (packReply r).length = 6 + r.msg.length + r.data.length := by
  simp [packReply, be16]; omega

theorem packContinue_length (r : ContinueRecord) : (packContinue r).length = 5 + r.msg.length + r.data.length := by
  simp [packContinue, be16]; omega

theorem flatten_length_le (l : List Bytes) (h : ∀ a ∈ l, a.length ≤ 255) : (l.flatten).length ≤ 255 * l.length := by
  induction l with
  | nil => simp
  | cons a l ih =>
    have h1 := h a (by simp)
    have h2 := ih fun a ha => h a (by simp [ha])
    simp only [List.flatten_cons, List.length_append, List.length_cons]; omega

theorem requestBody_length_le (s : State) (h : s.mem.wf = true) : (requestBody s.regs s.mem).length ≤ 2^32-1 := by
  rw [Memory.wf_iff_fields] at h
  obtain ⟨h1,h2,h3,h4,h5,h6,h7,h8,h9,h10,h11⟩ := h
  have ha : ∀ a ∈ argsBelow s.mem s.regs.argCnt.toNat, a.length ≤ 255 := by
    intro a ha
    simp only [argsBelow, List.mem_map, List.mem_range] at ha
    obtain ⟨i, hi, rfl⟩ := ha
    have : i < 255 := by have := s.regs.argCnt.isLt; omega
    rw [List.getD_eq_getElem _ _ (by simpa using this)]
    simpa using h11 ⟨i, this⟩
  have hb := flatten_length_le _ ha
  have hc : (argsBelow s.mem s.regs.argCnt.toNat).length = s.regs.argCnt.toNat := by simp [argsBelow]
  have := s.regs.argCnt.isLt
  simp only [requestBody, List.length_append, List.length_cons, List.length_nil, List.length_map, hc] at *
  omega

/-- Every command in every state has a verdict and writes of this form. -/
theorem command_form (i : Instr) (s : State) : ∃ v after, CommandForm i s v after := by
  have hframe : ∀ (b : Buf) (bs : Bytes) (b' : Buf), b' ≠ b → (s.writeBuf b bs).mem.read b' = s.mem.read b' :=
    fun b bs b' h => Memory.read_write_other _ _ h
  cases i
  case nop => exact ⟨none, s, CommandForm.ofKept (by decide) rfl (by simp) rfl rfl rfl rfl (by simp) (by simp) (by simp)⟩
  case clrf => exact ⟨none, s.clearFault, ⟨rfl, by simp, rfl, rfl, rfl, by simp, fun r h _ => by cases r
      <;> first | rfl | simp [Reg.isStatus] at h, fun _ _ => rfl, fun h _ => h⟩⟩
  case srst => exact ⟨none, s.resetBlock, ⟨rfl, by simp, rfl, rfl, rfl, by simp [Regs.reset]; decide,
      by simp [writesReg], by simp [writesBuf], fun _ _ => Memory.wf_reset⟩⟩
  case hdrEnc => exact ⟨_, _, CommandForm.ofKept (by decide) (exec_hdrEnc s)
      (fun e => headerVerdict_error _ rfl) rfl rfl rfl rfl (fun _ _ _ => rfl)
          (fun b hb => hframe _ _ _ (by simpa [writesBuf] using hb)) fun h _ => State.writeBuf_wf h (by simp [Buf.cap,
              Config.hbufCap])⟩
  case hdrDec => exact ⟨_, _, CommandForm.ofKept (by decide) (exec_hdrDec s)
      (fun e => hdrDecVerdict_error) rfl rfl rfl rfl (fun r _ h => Regs.setHeader_read _ _ _ h) (fun _ _ => rfl) (fun h _ => h)⟩
  case cipher => exact ⟨_, _, CommandForm.ofKept (by decide) (exec_cipher s)
      (fun e => secretVerdict_error _ rfl) rfl rfl rfl rfl (fun _ _ _ => rfl)
          (fun b hb => hframe _ _ _ (by simpa [writesBuf] using hb))
              fun h _ => State.writeBuf_wf h (by rw [cipherBody_length]; exact (Memory.wf_iff _).1 h .body)⟩
  case asEnc => exact ⟨_, _, CommandForm.ofKept (by decide) (exec_asEnc s)
      (fun e => startFieldVerdict_error _ rfl) rfl rfl rfl rfl (fun _ _ _ => rfl)
          (fun b hb => hframe _ _ _ (by simpa [writesBuf] using hb))
              fun h _ => State.writeBuf_wf h (by rw [Memory.wf_iff_fields] at h; rw [startBody_length]; simp [Buf.cap,
                  Config.bodyCap, State.startRecord]; omega)⟩
  case arEnc => exact ⟨_, _, CommandForm.ofKept (by decide) (exec_arEnc s)
      (fun e => replyFieldVerdict_error _ rfl) rfl rfl rfl rfl (fun _ _ _ => rfl)
          (fun b hb => hframe _ _ _ (by simpa [writesBuf] using hb))
              fun h _ => State.writeBuf_wf h (by rw [Memory.wf_iff_fields] at h; rw [packReply_length]; simp [Buf.cap,
                  Config.bodyCap, State.replyRecord]; omega)⟩
  case acEnc => exact ⟨_, _, CommandForm.ofKept (by decide) (exec_acEnc s)
      (fun e => continueFieldVerdict_error _ rfl) rfl rfl rfl rfl (fun _ _ _ => rfl)
          (fun b hb => hframe _ _ _ (by simpa [writesBuf] using hb))
              fun h _ => State.writeBuf_wf h (by rw [Memory.wf_iff_fields] at h; rw [packContinue_length]; simp [Buf.cap,
                  Config.bodyCap, State.continueRecord]; omega)⟩
  case zqEnc => exact ⟨_, _, CommandForm.ofKept (by decide) (exec_zqEnc s)
      (fun e => requestFieldVerdict_error _ rfl) rfl rfl rfl rfl (fun _ _ _ => rfl)
          (fun b hb => hframe _ _ _ (by simpa [writesBuf] using hb)) fun h _ => State.writeBuf_wf h (requestBody_length_le s h)⟩
  case asDec => exact ⟨_, _, parseStart_form _ (.inl rfl) s rfl⟩
  case arDec => exact ⟨_, _, parseReply_form _ (.inl rfl) s rfl⟩
  case acDec => exact ⟨_, _, parseContinue_form _ (.inl rfl) s rfl⟩
  case zrDec => exact ⟨_, _, parseAuthorReply_form _ (.inl rfl) s rfl⟩
  case pktAsm =>
    refine ⟨_, _, CommandForm.ofKept (by decide)
        (exec_pktAsm s) ?_ rfl rfl rfl rfl ?_ (fun b hb => Memory.read_write_other _ _ (by simpa [writesBuf] using hb))
            fun h _ => Memory.wf_write h ?_⟩
    · intro e h
      cases hh : headerVerdict s.params s.regs.header with
      | none => rw [hh] at h; exact secretVerdict_error _ rfl h
      | some e' => rw [hh] at h; cases h; exact headerVerdict_error _ rfl hh
    · intro r _ hr; cases r <;> first | rfl | simp [writesReg] at hr
    · have := (Memory.wf_iff _).1 h .body
      simp [Buf.cap, Config.wireCap, Memory.read] at *; omega
  case pktDis =>
    refine ⟨_, _, CommandForm.ofKept (by decide) (exec_pktDis s) (fun e => packetVerdict_error) rfl rfl rfl rfl
        (fun r _ h => Regs.setHeader_read _ _ _ h)
            (fun b hb => Memory.read_write_other _ _ (by simpa [writesBuf] using hb)) fun h _ => Memory.wf_write h ?_⟩
    rw [cipherBody_length]
    refine (memRead_length_le _ _ _).trans ?_
    have := (hdrUnpack s.mem.wire).len.isLt
    simp [Buf.cap, Config.bodyCap]; omega
  case bodyDec =>
    have hb : exec .bodyDec s = .next (s.parseBody (bodyRoute s.regs.hType s.regs.hSeq)) := rfl
    cases hr : bodyRoute s.regs.hType s.regs.hSeq <;> rw [hr] at hb
    · exact ⟨_, _, parseStart_form _ (.inr rfl) s hb⟩
    · exact ⟨_, _, parseReply_form _ (.inr rfl) s hb⟩
    · exact ⟨_, _, parseContinue_form _ (.inr rfl) s hb⟩
    · exact ⟨_, _, parseAuthorReply_form _ (.inr rfl) s hb⟩
    · rename_i e; exact ⟨some e, s,
        CommandForm.ofKept (by decide) hb (fun e' h => by cases h; exact bodyRoute_error hr) rfl rfl rfl rfl
            (fun _ _ _ => rfl) (fun _ _ => rfl) (fun h _ => h)⟩

theorem State.conclude_kept {s after : State} {v : Option CmdError} (hp : after.pending = s.pending)
    (hq : after.params = s.params) (ha : after.answer = s.answer) :
    (s.conclude v after).pending = s.pending ∧ (s.conclude v after).params = s.params ∧
      (s.conclude v after).answer = s.answer := by
  cases v with
  | none => exact ⟨hp, hq, ha⟩
  | some e => exact ⟨rfl, rfl, rfl⟩

theorem State.complete_read {r : Reg} (hr : r.isStatus = false) (s : State) : s.complete.regs.read r = s.regs.read r := by
  cases r <;> first | rfl | exact absurd hr (by decide)

theorem State.enterError_read {r : Reg} (hr : r.isStatus = false) (s : State) (e : CmdError) :
    (s.enterError e).regs.read r = s.regs.read r := by
  cases r <;> first | rfl | exact absurd hr (by decide)

/-- The kinds a command ends in are kinds the block writes (60_exceptions.md R245). -/
theorem canEndIn_code {i : Instr} {k : ErrKind} (h : canEndIn i k = true) :
    k.code ∈ blockCodes ∧ k.code ≠ 5 ∧ k.code ≠ 6 ∧ k.code ≠ 9 := by
  cases i <;> cases k <;> first | decide | exact absurd h (by decide)

/-- A command leaves the status registers as 60_exceptions.md R238 and R239 say. -/
theorem CommandForm.statusOk {i : Instr} {s after : State} {v : Option CmdError} (h : CommandForm i s v after) :
    (s.conclude v after).regs.StatusOk := by
  cases v with
  | none =>
    refine ⟨by simp, by simp; decide, by simp, fun _ => ⟨rfl, rfl, rfl⟩, ?_⟩
    show (0 : Byte).toNat ≤ 13; decide
  | some e =>
    obtain ⟨h1, h2⟩ := h.err e rfl
    refine ⟨by simp, by simpa using (canEndIn_code h1).1, by simp, fun h => absurd (by simpa using h) e.kind.code_ne_zero, ?_⟩
    show (BitVec.ofNat 8 e.f).toNat ≤ 13
    simp; omega

end Sys2Proof.Machine
end

