-- ==== Sys2Proof/Laws/PerInstr.lean ====
section
/-! SUPPORT. Per command, as syntax: it is well formed, it is one byte long, and reading its byte from the front of any
sequence gives it back with the rest (30_encoding.md R70, R71, R72). -/

namespace Sys2Proof.Laws.Encoding

/-- The command is well formed, its encoding is one byte, and the decoder takes exactly that byte. -/
def Statement (i : Instr) : Prop :=
  i.wellFormed = true ∧ (encodeBytes i).length = 1 ∧ ∀ rest, decodeBytes (encodeBytes i ++ rest) = .ok (i, rest)

theorem nop : Statement .nop := ⟨rfl, rfl, fun _ => rfl⟩

theorem clrf : Statement .clrf := ⟨rfl, rfl, fun _ => rfl⟩

theorem srst : Statement .srst := ⟨rfl, rfl, fun _ => rfl⟩

theorem hdrEnc : Statement .hdrEnc := ⟨rfl, rfl, fun _ => rfl⟩

theorem hdrDec : Statement .hdrDec := ⟨rfl, rfl, fun _ => rfl⟩

theorem cipher : Statement .cipher := ⟨rfl, rfl, fun _ => rfl⟩

theorem asEnc : Statement .asEnc := ⟨rfl, rfl, fun _ => rfl⟩

theorem asDec : Statement .asDec := ⟨rfl, rfl, fun _ => rfl⟩

theorem arEnc : Statement .arEnc := ⟨rfl, rfl, fun _ => rfl⟩

theorem arDec : Statement .arDec := ⟨rfl, rfl, fun _ => rfl⟩

theorem acEnc : Statement .acEnc := ⟨rfl, rfl, fun _ => rfl⟩

theorem acDec : Statement .acDec := ⟨rfl, rfl, fun _ => rfl⟩

theorem zqEnc : Statement .zqEnc := ⟨rfl, rfl, fun _ => rfl⟩

theorem zrDec : Statement .zrDec := ⟨rfl, rfl, fun _ => rfl⟩

theorem pktAsm : Statement .pktAsm := ⟨rfl, rfl, fun _ => rfl⟩

theorem pktDis : Statement .pktDis := ⟨rfl, rfl, fun _ => rfl⟩

theorem bodyDec : Statement .bodyDec := ⟨rfl, rfl, fun _ => rfl⟩

end Sys2Proof.Laws.Encoding
end

