-- ==== Sys2Proof/Laws/Step.lean ====
section
/-! SUPPORT. What a step can do, said once: it waits, runs one transaction, or stops by name. -/

namespace Sys2Proof.Machine

theorem runCommand_ok {op : Byte} {i : Instr} (h : decode op = .ok i) (s : State) : runCommand op s = exec i s := by
  simp [runCommand, h]

theorem runCommand_error {op : Byte} (h : ∀ i, decode op ≠ .ok i) (s : State) :
    runCommand op s = .next (s.raise .illegalCommand op.toNat 0 0) := by
  cases hd : decode op with
  | error e => simp [runCommand, hd]
  | ok i => exact absurd hd (h i)

theorem step_nil {s : State} (h : s.pending = []) : step s = .next s := by simp [step, advance, h]

theorem step_cons {s : State} {t : HostTxn} {rest : List HostTxn} (h : s.pending = t :: rest) :
    step s = runTxn t { s with pending := rest, answer := none } := by
  simp [step, advance, h]

theorem runRegWrite_other {r : Reg} (h : r ≠ .cmd) (v : BitVec r.width) (s : State) :
    runRegWrite r v s = .next { s with regs := s.regs.write r v } := by
  cases r <;> first | rfl | exact absurd rfl h

/-- Every way a transaction ends in a next state. -/
theorem runTxn_cases {t : HostTxn} {s u : State} (h : runTxn t s = .next u) :
    (∃ op, t = .regWrite .cmd op ∧ runCommand op s = .next u) ∨
    (t = .hardReset ∧ u = s.resetBlock) ∨
    (∃ r v, t = .regWrite r v ∧ r ≠ .cmd ∧ u = { s with regs := s.regs.write r v }) ∨
    (∃ b bytes, t = .bufLoad b bytes ∧ bytes.length ≤ b.cap ∧ u = s.writeBuf b bytes) ∨
    (∃ a, u = { s with answer := some a }) := by
  cases t with
  | regWrite r v =>
    by_cases hr : r = .cmd
    · subst hr; exact .inl ⟨v, rfl, h⟩
    · simp only [runTxn, runRegWrite_other hr] at h
      cases h
      exact .inr (.inr (.inl ⟨r, v, rfl, hr, rfl⟩))
  | hardReset => cases h; exact .inr (.inl ⟨rfl, rfl⟩)
  | bufLoad b bytes =>
    simp only [runTxn, runBufLoad] at h
    split at h <;> cases h
    exact .inr (.inr (.inr (.inl ⟨b, bytes, rfl, ‹_›, rfl⟩)))
  | regRead r => cases h; exact .inr (.inr (.inr (.inr ⟨_, rfl⟩)))
  | lenRead b => cases h; exact .inr (.inr (.inr (.inr ⟨_, rfl⟩)))
  | bufRead b => cases h; exact .inr (.inr (.inr (.inr ⟨_, rfl⟩)))
  | bufReadByte b off =>
    simp only [runTxn, runBufReadByte] at h
    split at h <;> cases h
    exact .inr (.inr (.inr (.inr ⟨_, rfl⟩)))

/-- What a write to CMD leaves of the model's own fields. -/
theorem runCommand_kept (op : Byte) (s : State) :
    ∃ t, runCommand op s = .next t ∧ t.pending = s.pending ∧ t.params = s.params ∧ t.answer = s.answer := by
  by_cases h : ∃ i, decode op = .ok i
  · obtain ⟨i, hi⟩ := h
    obtain ⟨v, a, hf⟩ := command_form i s
    exact ⟨_, (runCommand_ok hi s).trans hf.eq, State.conclude_kept hf.pending hf.params hf.answer⟩
  · exact ⟨_, runCommand_error (by simpa using h) s, rfl, rfl, rfl⟩

end Sys2Proof.Machine
end

