-- ==== Sys2Proof/Tests/Slice0.lean ====
section
/-! SUPPORT. Tests: the well-formedness smoke, command words written out bit by bit, the spec's own vectors (95_test_vectors.md; each
expected result is the spec's), and for every statement with hypotheses a concrete state and operands that meet them. -/

namespace Sys2Proof.Tests

open Sys2Proof Sys2Proof.Machine

set_option Elab.async false

/-- The next state of an outcome. -/
def nextOf : Host.Outcome State Fault Refusal → Option State
  | .next t => some t
  | .fault _ => none
  | .refused _ => none

/-- STATUS, ERR_A, ERR_B and ERR_F after an outcome, as numbers. -/
def statusAfter (o : Host.Outcome State Fault Refusal) : Option (List Nat) :=
  (nextOf o).map fun t => [t.regs.status.toNat, t.regs.errA.toNat, t.regs.errB.toNat, t.regs.errF.toNat]

/-- STATUS and one buffer after an outcome. -/
def bufAfter (b : Buf) (o : Host.Outcome State Fault Refusal) : Option (Word × Bytes) :=
  (nextOf o).map fun t => (t.regs.status, t.mem.read b)

/-- The reset state with these registers and buffers. -/
def put (x : Regs) (m : Memory) : State := { State.reset with regs := x, mem := m }

/-- The same with HAS_AUTHOR_REPLY true. -/
def putReplying (x : Regs) (m : Memory) : State :=
  { put x m with params := { Config.reference with hasAuthorReply := true } }

/-- Registers after `hdr`, as 30_encoding.md R77 sets them. -/
def hdrRegs (major minor : BitVec 4) (ptype seq flags : Byte) (sid len : Word) : Regs :=
  Regs.reset.setHeader ⟨major, minor, ptype, seq, flags, sid, len⟩

/-- A state whose host issues one transaction next. -/
def issuing (t : HostTxn) : State := { State.reset with pending := [t] }

/-! ### Names used by 95_test_vectors.md -/

def user3 : Bytes := [0x75, 0x73, 0x65, 0x72, 0x33]
def pass3 : Bytes := [0x70, 0x61, 0x73, 0x73, 0x33]
def secretText : Bytes := [0x73, 0x65, 0x63, 0x72, 0x65, 0x74]
def hello : Bytes := [0x68, 0x65, 0x6C, 0x6C, 0x6F]
def passwordText : Bytes := [0x50, 0x61, 0x73, 0x73, 0x77, 0x6F, 0x72, 0x64, 0x3A, 0x20]
def tty0 : Bytes := [0x74, 0x74, 0x79, 0x30]
def serviceShell : Bytes := [0x73, 0x65, 0x72, 0x76, 0x69, 0x63, 0x65, 0x3D, 0x73, 0x68, 0x65, 0x6C, 0x6C]
def cmdText : Bytes := [0x63, 0x6D, 0x64, 0x3D]
def startBytes : Bytes := [0x01, 0x00, 0x01, 0x00, 0x05, 0x00, 0x00, 0x05] ++ user3 ++ pass3
def replyBytes : Bytes := [0x05, 0x01, 0x00, 0x0A, 0x00, 0x00] ++ passwordText
def contBytes : Bytes := [0x00, 0x00, 0x00, 0x05, 0x00] ++ pass3
def zrBytes : Bytes := [0x01, 0x01, 0x0B, 0x00, 0x00, 0x00, 0x00, 0x70, 0x72, 0x69, 0x76, 0x2D, 0x6C, 0x76, 0x6C, 0x3D, 0x31, 0x35]
def zr2Bytes : Bytes :=
  [0x02, 0x02, 0x03, 0x04, 0x00, 0x02, 0x00, 0x01, 0x6F, 0x6B, 0xFF, 0x61, 0x3D, 0x62, 0x63, 0x3D, 0x64, 0x65]
def packetW : Bytes :=
  [0xC0, 0x01, 0x01, 0x00, 0x00, 0x00, 0x00, 0x01, 0x00, 0x00, 0x00, 0x05, 0x54, 0x05, 0x58, 0x3B, 0xA7]

/-! ### Well-formedness -/

/-- 20_memory.md R55: a load one byte over the cap is refused by the check, one at the cap is not (USER, cap 255). -/
theorem test_wellFormed_bufLoad :
    (HostTxn.bufLoad .user (List.replicate 256 0)).wellFormed = false ∧
      (HostTxn.bufLoad .user (List.replicate 255 0)).wellFormed = true := by decide +kernel

/-- 30_encoding.md R71: no command has a field, so none is ill formed. -/
theorem test_wellFormed_instr :
    [Instr.nop, .clrf, .srst, .hdrEnc, .hdrDec, .cipher, .asEnc, .asDec, .arEnc, .arDec, .acEnc, .acDec, .zqEnc, .zrDec,
      .pktAsm, .pktDis, .bodyDec].all Instr.wellFormed = true := by decide

/-! ### Command words, bit 7 first (30_encoding.md R70, R72) -/

theorem test_decode_system :
    decode 0b00000000#8 = .ok .nop ∧ decode 0b00000001#8 = .ok .clrf ∧ decode 0b00000010#8 = .ok .srst := ⟨rfl, rfl, rfl⟩

theorem test_decode_header_cipher :
    decode 0b00010000#8 = .ok .hdrEnc ∧ decode 0b00010001#8 = .ok .hdrDec ∧ decode 0b00100000#8 = .ok .cipher :=
  ⟨rfl, rfl, rfl⟩

theorem test_decode_authentication :
    decode 0b00110000#8 = .ok .asEnc ∧ decode 0b00110001#8 = .ok .asDec ∧ decode 0b00110010#8 = .ok .arEnc ∧
      decode 0b00110011#8 = .ok .arDec ∧ decode 0b00110100#8 = .ok .acEnc ∧ decode 0b00110101#8 = .ok .acDec :=
  ⟨rfl, rfl, rfl, rfl, rfl, rfl⟩

theorem test_decode_authorization_packet :
    decode 0b01000000#8 = .ok .zqEnc ∧ decode 0b01000011#8 = .ok .zrDec ∧ decode 0b01010000#8 = .ok .pktAsm ∧
      decode 0b01010001#8 = .ok .pktDis ∧ decode 0b01010010#8 = .ok .bodyDec := ⟨rfl, rfl, rfl, rfl, rfl⟩

/-- 30_encoding.md R73: held-back opcodes are refused by name, and so is any other unlisted one. -/
theorem test_decode_refuses :
    decode 0x41#8 = .error (.heldBack 0x41) ∧ decode 0x60#8 = .error (.heldBack 0x60) ∧
      decode 0x6F#8 = .error (.heldBack 0x6F) ∧ decode 0x70#8 = .error (.illegal 0x70) ∧
      decode 0xFF#8 = .error (.illegal 0xFF) ∧ decodeBytes [] = .error .noWord := ⟨rfl, rfl, rfl, rfl, rfl, rfl⟩

/-- 30_encoding.md R73: the edges of the eight ranges, and their neighbours in the map. -/
theorem test_illegalOpcode_edges :
    [0x03, 0x0F, 0x12, 0x1F, 0x21, 0x2F, 0x36, 0x3F, 0x41, 0x42, 0x44, 0x4F, 0x53, 0xFF].all illegalOpcode = true ∧
      [0x00, 0x02, 0x10, 0x11, 0x20, 0x30, 0x35, 0x40, 0x43, 0x50, 0x52].any illegalOpcode = false := by decide

/-! ### Steps -/

/-- RS-9 through `withFetchWord`: AC_ENC as the first command after reset. -/
theorem test_step_after_reset :
    bufAfter .body (step (State.reset.withFetchWord 8 0x34)) = some (0, [0, 0, 0, 0, 0]) := by decide +kernel

/-- SY-2: a held-back opcode. -/
theorem test_step_illegal : statusAfter (step (State.reset.withFetchWord 8 0x41)) = some [0x18, 65, 0, 0] := by
  decide +kernel

/-- SY-6: a host write to STATUS is ignored. -/
theorem test_step_write_status : statusAfter (step (issuing (.regWrite .status 0xFF))) = some [0, 0, 0, 0] := by
  decide +kernel

/-! ### System commands (section 2.10) -/

/-- The state after the first command of SY-1. -/
def afterShortHeader : State := put { Regs.reset with status := 0x11, errA := 12, errB := 2 } { Memory.reset with hbuf := [0x12, 0x01] }

/-- SY-1, second command. -/
theorem test_nop : statusAfter (exec .nop afterShortHeader) = some [0x10, 0, 0, 0] := by decide +kernel

/-- SY-1, third command. -/
theorem test_clrf : statusAfter (exec .clrf afterShortHeader) = some [0, 0, 0, 0] := by decide +kernel

/-- SY-4, first command. -/
theorem test_srst : nextOf (exec .srst afterShortHeader) = some State.reset := by decide +kernel

/-! ### Header codec (sections 1.2, 2.1) -/

/-- H-E1. -/
theorem test_hdrEnc_E1 :
    bufAfter .hbuf (exec .hdrEnc (put (hdrRegs 12 0 1 1 0x00 0xDEADBEEF 26) Memory.reset)) =
      some (0, [0xC0, 0x01, 0x01, 0x00, 0xDE, 0xAD, 0xBE, 0xEF, 0x00, 0x00, 0x00, 0x1A]) := by decide +kernel

/-- H-E10: type is tested before flags. -/
theorem test_hdrEnc_E10 :
    statusAfter (exec .hdrEnc (put (hdrRegs 12 0 9 1 0xFF 1 0) Memory.reset)) = some [0x12, 9, 0, 3] := by decide +kernel

/-- S1, the source's own example. -/
theorem test_hdrDec_S1 :
    (nextOf (exec .hdrDec (put Regs.reset
      { Memory.reset with hbuf := [0x12, 0x01, 0x42, 0x01, 0, 0, 0, 1, 0, 0, 0, 0x0C] }))).map
        (fun t => (t.regs.status, t.regs.header, t.regs.read .hDerived)) =
      some (0, ⟨1, 2, 1, 66, 0x01, 1, 12⟩, 0) := by decide +kernel

/-- H-D14: with VALID_MAJOR = {1} a major version 12 is refused. -/
theorem test_hdrDec_D14 :
    statusAfter (exec .hdrDec { put Regs.reset
      { Memory.reset with hbuf := [0xC0, 0x01, 0x01, 0x00, 0, 0, 0, 1, 0, 0, 0, 0] } with
        params := { Config.reference with otherMajors := [] } }) = some [0x12, 12, 0, 1] := by decide +kernel

/-! ### MD5 and CIPHER (sections 2.2, 2.3) -/

/-- The check digests. -/
theorem test_md5 :
    md5 [] = [0xD4, 0x1D, 0x8C, 0xD9, 0x8F, 0x00, 0xB2, 0x04, 0xE9, 0x80, 0x09, 0x98, 0xEC, 0xF8, 0x42, 0x7E] ∧
      md5 [0x61] = [0x0C, 0xC1, 0x75, 0xB9, 0xC0, 0xF1, 0xB6, 0xA8, 0x31, 0xC3, 0x99, 0xE2, 0x69, 0x77, 0x26, 0x61] ∧
      md5 [0x61, 0x62, 0x63] =
        [0x90, 0x01, 0x50, 0x98, 0x3C, 0xD2, 0x4F, 0xB0, 0xD6, 0x96, 0x3F, 0x7D, 0x28, 0xE1, 0x7F, 0x72] := by decide +kernel

/-- K-1, the third pad and the prefix law's last entry. -/
theorem test_keystream_K1 :
    keystream 1 secretText 0xC0 1 33 =
      [0x3C, 0x60, 0x34, 0x57, 0xC8, 0xE4, 0xEC, 0x31, 0x1C, 0x6F, 0x3B, 0xF2, 0xCA, 0x1C, 0x8F, 0x6A,
       0x72, 0x72, 0x26, 0xC9, 0x80, 0x32, 0xCB, 0xF2, 0x11, 0xEE, 0x9C, 0x14, 0xFF, 0x9E, 0x73, 0x28, 0x17] := by decide +kernel

/-- C-13: an empty secret that is present, and a body that crosses a pad. -/
theorem test_cipher_C13 :
    bufAfter .body (exec .cipher (put { hdrRegs 12 1 1 2 0 0xDEADBEEF 0 with secretPresent := 1 }
      { Memory.reset with body := (List.range 20).map (BitVec.ofNat 8) })) =
      some (0, [0x39, 0x06, 0xF4, 0x07, 0x61, 0x9B, 0x68, 0xA5, 0x52, 0xDD, 0x11, 0x6A, 0x2A, 0x7D, 0x38, 0xFD,
        0xA8, 0xE6, 0x61, 0x0D]) := by decide +kernel

/-- C-11: the secret is tested before the body is looked at. -/
theorem test_cipher_C11 :
    statusAfter (exec .cipher (put (hdrRegs 12 0 1 1 0x00 1 0) Memory.reset)) = some [0x17, 0, 0, 0] := by decide +kernel

/-! ### Authentication (sections 2.4 to 2.6) -/

/-- AS-E4. -/
theorem test_asEnc_E4 :
    bufAfter .body (exec .asEnc (put { Regs.reset with asAction := 4, privLvl := 15, authenType := 6, authenSvc := 9 }
      { Memory.reset with user := [0x61], port := [0x62, 0x63], remAddr := [0x64, 0x65, 0x66], content := [0x00, 0xFF] })) =
      some (0, [0x04, 0x0F, 0x06, 0x09, 0x01, 0x02, 0x03, 0x02, 0x61, 0x62, 0x63, 0x64, 0x65, 0x66, 0x00, 0xFF]) := by
  decide +kernel

/-- AS-E7. -/
theorem test_asEnc_E7 :
    statusAfter (exec .asEnc (put { Regs.reset with asAction := 1, authenType := 4 } Memory.reset)) =
      some [0x12, 4, 0, 7] := by decide +kernel

/-- AS-D1. -/
theorem test_asDec_D1 :
    (nextOf (exec .asDec (put { Regs.reset with hLen := 18 } { Memory.reset with body := startBytes }))).map
      (fun t => (t.regs.status, t.startRecord)) = some (0, ⟨1, 0, 1, 0, user3, [], [], pass3⟩) := by decide +kernel

/-- AS-D15: check 5, `ERR_A` is BODY_LEN. -/
theorem test_asDec_D15 :
    statusAfter (exec .asDec (put { Regs.reset with hLen := 18 } { Memory.reset with body := startBytes ++ [0x00] })) =
      some [0x13, 19, 18, 0] := by decide +kernel

/-- AR-E1. -/
theorem test_arEnc_E1 :
    bufAfter .body (exec .arEnc (put { Regs.reset with arStatus := 5, arFlags := 1 }
      { Memory.reset with msg := passwordText })) = some (0, replyBytes) := by decide +kernel

/-- AR-E4. -/
theorem test_arEnc_E4 :
    statusAfter (exec .arEnc (put { Regs.reset with arStatus := 1, arFlags := 2 } Memory.reset)) =
      some [0x12, 2, 0, 10] := by decide +kernel

/-- AR-D3. -/
theorem test_arDec_D3 :
    (nextOf (exec .arDec (put { Regs.reset with hLen := 9 }
      { Memory.reset with body := [0x21, 0, 0, 0, 0, 0x03, 0x61, 0x62, 0x63] }))).map
        (fun t => (t.regs.status, t.replyRecord)) = some (0, ⟨0x21, 0, [], [0x61, 0x62, 0x63]⟩) := by decide +kernel

/-- AR-D9: the data length is read big-endian. -/
theorem test_arDec_D9 :
    statusAfter (exec .arDec (put { Regs.reset with hLen := 16 }
      { Memory.reset with body := [0x05, 0x01, 0, 0, 0x01, 0] ++ List.replicate 10 0 })) = some [0x11, 262, 16, 0] := by
  decide +kernel

/-- AC-E1. -/
theorem test_acEnc_E1 :
    bufAfter .body (exec .acEnc (put Regs.reset { Memory.reset with data := pass3 })) = some (0, contBytes) := by
  decide +kernel

/-- The Reply and Continue flag sets are the instance's (00_scope.md R6): flags 2 pass where the argument holds it, and Reply flags 0
fail where it does not hold that. -/
theorem test_flag_sets_open :
    let p := { Config.reference with replyFlag := [0x02], otherContinueFlags := [0x02] }
    let run := fun i (x : Regs) => statusAfter (exec i { put x Memory.reset with params := p })
    run .arEnc { Regs.reset with arStatus := 1, arFlags := 2 } = some [0, 0, 0, 0] ∧
      run .arEnc { Regs.reset with arStatus := 1 } = some [0x12, 0, 0, 10] ∧
      run .acEnc { Regs.reset with acFlags := 2 } = some [0, 0, 0, 0] ∧
      run .acEnc { Regs.reset with acFlags := 1 } = some [0x12, 1, 0, 11] := by decide +kernel

/-- AC-E3. -/
theorem test_acEnc_E3 :
    statusAfter (exec .acEnc (put { Regs.reset with acFlags := 3 } Memory.reset)) = some [0x12, 3, 0, 11] := by decide +kernel

/-- AC-D3. -/
theorem test_acDec_D3 :
    (nextOf (exec .acDec (put { Regs.reset with hLen := 8 }
      { Memory.reset with body := [0, 0x02, 0, 0x01, 0, 0x68, 0x69, 0x21] }))).map
        (fun t => (t.regs.status, t.continueRecord)) = some (0, ⟨0, [0x68, 0x69], [0x21]⟩) := by decide +kernel

/-- AC-D6: the flag before the lengths. -/
theorem test_acDec_D6 :
    statusAfter (exec .acDec (put { Regs.reset with hLen := 5 }
      { Memory.reset with body := [0xFF, 0xFF, 0xFF, 0xFF, 0x02] })) = some [0x12, 2, 0, 11] := by decide +kernel

/-! ### Authorization (section 2.7) -/

/-- The Request operands of section 2.7. -/
def requestRegs (n : Byte) : Regs :=
  { Regs.reset with zqMethod := 6, privLvl := 1, authenType := 1, authenSvc := 1, argCnt := n }

def requestMem : Memory :=
  { Memory.reset with user := user3, port := tty0, args := (Memory.reset.args.set 0 serviceShell).set 1 cmdText }

/-- ZQ-1. -/
theorem test_zqEnc_1 :
    bufAfter .body (exec .zqEnc (put (requestRegs 2) requestMem)) =
      some (0, [0x06, 0x01, 0x01, 0x01, 0x05, 0x04, 0x00, 0x02, 0x0D, 0x04] ++ user3 ++ tty0 ++ serviceShell ++ cmdText) := by
  decide +kernel

/-- ZQ-2: arguments at and past ARG_CNT are ignored. -/
theorem test_zqEnc_2 :
    bufAfter .body (exec .zqEnc (put (requestRegs 0) requestMem)) =
      some (0, [0x06, 0x01, 0x01, 0x01, 0x05, 0x04, 0x00, 0x00] ++ user3 ++ tty0) := by decide +kernel

/-- ZR-5. -/
theorem test_zrDec_5 :
    (nextOf (exec .zrDec (putReplying { Regs.reset with hLen := 18 } { Memory.reset with body := zr2Bytes }))).map
      (fun t => (t.regs.status, [[t.regs.zrStatus, t.regs.argCnt], t.mem.msg, t.mem.data, t.mem.args[0], t.mem.args[1]])) =
      some (0, [[2, 2], [0x6F, 0x6B], [0xFF], [0x61, 0x3D, 0x62], [0x63, 0x3D, 0x64, 0x65]]) := by decide +kernel

/-- ZR-1: nothing is parsed with the parameter false. -/
theorem test_zrDec_1 :
    statusAfter (exec .zrDec (put { Regs.reset with hLen := 18, hSeq := 2 } { Memory.reset with body := zrBytes })) =
      some [0x14, 2, 2, 0] := by decide +kernel

/-! ### Packets (sections 2.8, 2.9) -/

/-- PA-1. -/
theorem test_pktAsm_1 :
    (nextOf (exec .pktAsm (put { hdrRegs 12 0 1 1 0x00 1 77 with secretPresent := 1 }
      { Memory.reset with secret := secretText, body := hello }))).map
        (fun t => (t.regs.status, t.regs.hLen, t.mem.wire, t.mem.body)) = some (0, 5, packetW, hello) := by decide +kernel

/-- PA-3: the header check before the cipher check. -/
theorem test_pktAsm_3 :
    statusAfter (exec .pktAsm (put (hdrRegs 12 0 0 1 0x00 1 77) { Memory.reset with body := hello })) =
      some [0x12, 0, 0, 3] := by decide +kernel

/-- PD-12: a wrong secret is not detected. -/
theorem test_pktDis_12 :
    (nextOf (exec .pktDis (put { Regs.reset with secretPresent := 1 }
      { Memory.reset with secret := [0x53, 0x65, 0x63, 0x72, 0x65, 0x74], wire := packetW }))).map
        (fun t => (t.regs.status, t.regs.header, t.mem.body)) =
      some (0, ⟨12, 0, 1, 1, 0, 1, 5⟩, [0xD3, 0x9C, 0xA3, 0x83, 0xC0]) := by decide +kernel

/-- PD-10: the field check before the length check. -/
theorem test_pktDis_10 :
    statusAfter (exec .pktDis (put { Regs.reset with secretPresent := 1 }
      { Memory.reset with secret := secretText, wire := (packetW.set 3 0x02).take 16 })) = some [0x12, 2, 0, 4] := by
  decide +kernel

/-- BD-8: the Reply parser on a Start body. -/
theorem test_bodyDec_8 :
    statusAfter (exec .bodyDec (put { Regs.reset with hType := 1, hSeq := 2, hLen := 18 }
      { Memory.reset with body := startBytes })) = some [0x11, 1542, 18, 0] := by decide +kernel

/-- BD-12. -/
theorem test_bodyDec_12 :
    (nextOf (exec .bodyDec (putReplying { Regs.reset with hType := 2, hSeq := 2, hLen := 18 }
      { Memory.reset with body := zrBytes, args := Memory.reset.args.set 1 [0x41, 0x31] }))).map
        (fun t => (t.regs.status, [[t.regs.zrStatus, t.regs.argCnt], t.mem.args[0], t.mem.args[1]])) =
      some (0, [[1, 1], [0x70, 0x72, 0x69, 0x76, 0x2D, 0x6C, 0x76, 0x6C, 0x3D, 0x31, 0x35], [0x41, 0x31]]) := by decide +kernel

/-! ### Witnesses: for each statement with hypotheses, a concrete state and operands that meet them together -/

/-- Every operand of every command present: the session of P1, with the Request of section 2.7 and the Reply of section 2.5. -/
def full : State := put
  { hdrRegs 12 0 1 1 0x00 0x12345678 0 with
    secretPresent := 1, asAction := 1, privLvl := 1, authenType := 1, authenSvc := 1
    arStatus := 5, arFlags := 1, acFlags := 0, zqMethod := 6, argCnt := 2 }
  { requestMem with secret := secretText, content := pass3, msg := passwordText, data := [0xFF] }

/-- The same at another sequence number. -/
def fullAt (seq : Byte) : State := { full with regs := { full.regs with hSeq := seq } }

/-- A state that receives: `BODY`, `H_TYPE`, `H_SEQ` and `H_LEN` given. -/
def receiving (ptype seq : Byte) (len : Word) (body : Bytes) : State :=
  putReplying { Regs.reset with hType := ptype, hSeq := seq, hLen := len } { Memory.reset with body := body }

/-- The first 12 bytes of PA-1's packet. -/
def headerW : Bytes := packetW.take 12

theorem test_witness_IllegalOpcodeRaises :
    illegalOpcode (0x41 : Byte).toNat = true ∧ illegalOpcode (0xFF : Byte).toNat = true := by decide

/-- For DecodeEncodeAgree: both sides of each equivalence hold, and fail, somewhere. -/
theorem test_witness_DecodeEncodeAgree :
    decode 0x43 = .ok .zrDec ∧ Instr.zrDec.wellFormed = true ∧ decodeBytes [0x43, 0x41] = .ok (.zrDec, [0x41]) ∧
      [0x43, 0x41] = encodeBytes .zrDec ++ [0x41] ∧ decodeTableWord 8 0x143 = some .zrDec ∧
      0x143 % 256 = (encode .zrDec).toNat ∧ decodeTableWord 8 0x41 = none := ⟨rfl, rfl, rfl, rfl, rfl, rfl, rfl⟩

theorem test_witness_StepRunsDecodedCommand :
    (issuing (.regWrite .cmd 0x52)).pending = [.regWrite .cmd 0x52] ∧ decode 0x52 = .ok .bodyDec ∧
      Instr.bodyDec.wellFormed = true ∧ decodeTableWord 8 0x00 = some .nop ∧ decodeTableWord 8 0x52 = some .bodyDec :=
  ⟨rfl, rfl, rfl, rfl, rfl⟩

theorem test_witness_StepWaitsWithNothingPending : State.reset.pending = [] := rfl

/-- For StepTakesOneTransaction, StepKeepsParameters, OnlyCommandsAndResetTouchStatus. -/
theorem test_witness_step_of_a_read : ∃ s t : State, step s = .next t ∧
    (∀ op rest, s.pending ≠ .regWrite .cmd op :: rest) ∧ (∀ rest, s.pending ≠ .hardReset :: rest) :=
  ⟨issuing (.regRead .status), _, rfl, fun _ _ h => absurd (List.cons.inj h).1 (by simp),
    fun _ h => absurd (List.cons.inj h).1 (by simp)⟩

theorem test_witness_RegWriteChangesOneRegister :
    (issuing (.regWrite .hFlags 0xFF)).pending = [.regWrite .hFlags 0xFF] ∧ Reg.hFlags ≠ .cmd ∧ Reg.hFlags.access = .rw ∧
      (issuing (.regWrite .hDerived 3)).pending = [.regWrite .hDerived 3] ∧ Reg.hDerived ≠ .cmd ∧
      Reg.hDerived.access = .ro := by decide +kernel

theorem test_witness_ReadsChangeNothing :
    (issuing (.regRead .cmd)).pending = [.regRead .cmd] ∧ (issuing (.lenRead .wire)).pending = [.lenRead .wire] ∧
      full.mem.wf = true := by decide +kernel

/-- Both sides of the cap: 255 bytes and 256 bytes for USER. -/
theorem test_witness_BufLoadReplacesOneBuffer :
    (issuing (.bufLoad .user (List.replicate 255 0))).pending = [.bufLoad .user (List.replicate 255 0)] ∧
      (List.replicate 255 (0 : Byte)).length ≤ Buf.user.cap ∧
      (issuing (.bufLoad .user (List.replicate 256 0))).pending = [.bufLoad .user (List.replicate 256 0)] ∧
      Buf.user.cap < (List.replicate 256 (0 : Byte)).length := by decide +kernel

/-- Both sides of the end: offsets 4 and 5 of a five-byte buffer. -/
theorem test_witness_BufReadsReturnContent :
    ({ full with pending := [.bufReadByte .user 4] } : State).pending = [.bufReadByte .user 4] ∧
      4 < (full.mem.read .user).length ∧ (full.mem.read .user).length ≤ 5 ∧
      ({ full with pending := [.bufRead .user] } : State).pending = [.bufRead .user] := by decide +kernel

/-- For CommandWriteAlwaysCompletes, with a legal and an illegal word. -/
theorem test_witness_CommandWriteAlwaysCompletes :
    (issuing (.regWrite .cmd 0x00)).pending = [.regWrite .cmd 0x00] ∧
      (issuing (.regWrite .cmd 0xFF)).pending = [.regWrite .cmd 0xFF] := by decide +kernel

theorem test_witness_ResetValues :
    (State.reset = State.reset ∨ ∃ p, State.reset = State.resetWith p) ∧ Reg.cmd ≠ .hDerived ∧ Reg.argCnt ≠ .hDerived :=
  ⟨.inl rfl, by decide, by decide⟩

/-- For CommandsOnResetState: both instructions of its first clause. -/
theorem test_witness_CommandsOnResetState :
    (Instr.hdrEnc = .hdrEnc ∨ Instr.hdrEnc = .pktAsm) ∧ (Instr.pktAsm = .hdrEnc ∨ Instr.pktAsm = .pktAsm) :=
  ⟨.inl rfl, .inr rfl⟩

theorem test_witness_HardResetEqualsReset :
    ({ full with pending := [.hardReset, .regRead .status] } : State).pending = [.hardReset, .regRead .status] := rfl

theorem test_witness_HostKindsNeverWritten :
    (∃ s t : State, runCommand 0x41 s = .next t) ∧
      (∃ s t : State, step s = .next t ∧ statusErr s.regs.status ≠ 5 ∧ statusErr s.regs.status ≠ 6 ∧
        statusErr s.regs.status ≠ 9) :=
  ⟨⟨State.reset, _, rfl⟩, ⟨issuing (.regWrite .cmd 0x41), _, rfl, by decide +kernel, by decide +kernel, by decide +kernel⟩⟩

/-- The latch set, and NOP next. -/
theorem test_witness_NextCommandIgnoresStatus :
    ∃ s t : State, step s = .next t ∧ statusFlt s.regs.status = true ∧
      (∀ rest, s.pending ≠ .regWrite .cmd 0x01 :: rest) ∧ (∀ rest, s.pending ≠ .regWrite .cmd 0x02 :: rest) ∧
      (∀ rest, s.pending ≠ .hardReset :: rest) :=
  ⟨{ afterShortHeader with pending := [.regWrite .cmd 0x00] }, _, rfl, by decide +kernel,
    fun _ h => absurd (List.cons.inj h).1 (by decide), fun _ h => absurd (List.cons.inj h).1 (by decide),
    fun _ h => absurd (List.cons.inj h).1 (by decide)⟩

/-- For each kind the block's commands can end in, a command and a state that end so; and an opcode outside the map. -/
theorem test_witness_ErrorTable :
    statusAfter (exec .hdrDec State.reset) = some [0x11, 12, 0, 0] ∧
      statusAfter (exec .hdrEnc State.reset) = some [0x12, 0, 0, 3] ∧
      statusAfter (exec .acDec (receiving 1 3 11 contBytes)) = some [0x13, 11, 10, 0] ∧
      statusAfter (exec .zrDec State.reset) = some [0x14, 2, 0, 0] ∧
      statusAfter (exec .cipher State.reset) = some [0x17, 0, 0, 0] ∧ ∀ i, decode 0x41 ≠ .ok i :=
  ⟨by decide +kernel, by decide +kernel, by decide +kernel, by decide +kernel, by decide +kernel, fun _ h => by cases h⟩

/-- A buffer and a register outside the columns, and an error. -/
theorem test_witness_CommandFrame :
    writesBuf .pktAsm .body = false ∧ writesReg .pktAsm .hSeq = false ∧ Reg.hSeq.isStatus = false ∧
      ∃ t, exec .pktAsm State.reset = .next t ∧ ¬t.Ok :=
  ⟨rfl, rfl, rfl, _, rfl, by decide +kernel⟩

/-- CIPHER in two states that differ in a register and a buffer it does not read. -/
theorem test_witness_CommandReadsOnlyItsOperands :
    let s' := { full with regs := { full.regs with hType := 3 }, mem := { full.mem with user := [] } }
    full ≠ s' ∧ full.params = s'.params ∧ (∀ r, readsReg .cipher r = true → full.regs.read r = s'.regs.read r) ∧
      (∀ b, readsBuf .cipher full.regs.argCnt b = true → full.mem.read b = s'.mem.read b) := by
  refine ⟨by decide +kernel, rfl, fun r h => ?_, fun b h => ?_⟩
  · cases r <;> first | rfl | exact absurd h (by decide)
  · cases b <;> first | rfl | exact absurd h (by simp [readsBuf])

/-- For HeaderPackUnpackInverse and HdrDecUnpacksHeader: 12 bytes, a header they hold, and each of the four tests failing. -/
theorem test_witness_header_bytes :
    headerW.length = 12 ∧ headerW = headerBytes ⟨12, 0, 1, 1, 0, 1, 5⟩ ∧
      headerVerdict Config.reference ⟨12, 0, 1, 1, 0, 1, 5⟩ = none ∧ packetW.length ≠ 12 ∧
      headerVerdict { Config.reference with otherMajors := [] } (headerIn headerW) = some ⟨.invalidField, 12, 0, 1⟩ ∧
      headerVerdict { Config.reference with otherMinors := [] } (headerIn headerW) = some ⟨.invalidField, 0, 0, 2⟩ ∧
      headerVerdict Config.reference (headerIn (headerW.set 1 0x04)) = some ⟨.invalidField, 4, 0, 3⟩ ∧
      headerVerdict Config.reference (headerIn (headerW.set 3 0x02)) = some ⟨.invalidField, 2, 0, 4⟩ := by decide +kernel

/-- For HdrEncPacksHeader and HeaderRoundTrip, first clauses and the error. -/
theorem test_witness_HdrEncPacksHeader :
    headerVerdict full.params full.regs.header = none ∧
      headerVerdict State.reset.params State.reset.regs.header = some ⟨.invalidField, 0, 0, 3⟩ := by decide +kernel

theorem test_witness_HeaderRoundTrip :
    ∃ s t : State, exec .hdrDec s = .next t ∧ t.Ok :=
  ⟨put Regs.reset { Memory.reset with hbuf := headerW }, _, rfl, by decide +kernel⟩

theorem test_witness_HeaderCodecsAcceptAlike :
    ({ full with mem := { full.mem with hbuf := headerBytes full.regs.header } } : State).mem.hbuf =
      headerBytes full.regs.header := rfl

/-- For KeystreamIsPadChain and KeystreamIndependence: offsets on both sides of a pad, a shorter and a longer keystream, and a
provisioned secret with the flag clear before and after. -/
theorem test_witness_KeystreamIndependence :
    (15 < 17 ∧ 16 < 17) ∧ 16 ≤ 17 ∧ full.regs.secretPresent = 1 ∧ full.regs.hFlags &&& 0x01 = 0 ∧
      (0x04 : Byte) &&& 0x01 = 0 ∧ (startBytes.length =
        ({ full with mem := { full.mem with body := List.replicate 18 0 } } : State).mem.body.length) := by decide +kernel

/-- For CipherResult: the flag set; the flag clear with the secret null, and present. -/
theorem test_witness_CipherResult :
    ({ full.regs with hFlags := 0x05 }).hFlags &&& 0x01 ≠ 0 ∧ Regs.reset.hFlags &&& 0x01 = 0 ∧ Regs.reset.secretPresent = 0 ∧
      full.regs.hFlags &&& 0x01 = 0 ∧ full.regs.secretPresent = 1 := by decide +kernel

theorem test_witness_CipherSelfInverse : ∃ t, exec .cipher full = .next t ∧ t.Ok := ⟨_, rfl, by decide +kernel⟩

/-- For AsEncWritesStart and StartRoundTrip: the fields in their sets, and each of the four out of its set at a boundary. -/
theorem test_witness_AsEncWritesStart :
    startFieldVerdict full.params full.regs.asAction full.regs.privLvl full.regs.authenType full.regs.authenSvc = none ∧
      full.mem.wf = true ∧
      startFieldVerdict Config.reference 1 15 1 0 = none ∧
      startFieldVerdict Config.reference 0 0 1 0 = some ⟨.invalidField, 0, 0, 5⟩ ∧
      startFieldVerdict Config.reference 1 16 1 0 = some ⟨.invalidField, 16, 0, 6⟩ ∧
      startFieldVerdict Config.reference 1 0 4 0 = some ⟨.invalidField, 4, 0, 7⟩ ∧
      startFieldVerdict Config.reference 1 0 1 10 = some ⟨.invalidField, 10, 0, 8⟩ := by decide +kernel

theorem test_witness_StartPresented : StartPresented (receiving 1 1 18 startBytes) ⟨1, 0, 1, 0, user3, [], [], pass3⟩ := by
  unfold StartPresented; decide +kernel

/-- Each check of AS_DEC failing, at AS-D4, AS-D6, AS-D11, AS-D12, AS-D15, and all passing. -/
theorem test_witness_AsDecStoresStart :
    startVerdict Config.reference (startBytes.take 7) 7 = some ⟨.invalidSize, 8, 7, 0⟩ ∧
      startVerdict Config.reference (startBytes.set 0 0x03) 18 = some ⟨.invalidField, 3, 0, 5⟩ ∧
      startVerdict Config.reference (startBytes.take 17) 18 = some ⟨.invalidSize, 18, 17, 0⟩ ∧
      startVerdict Config.reference startBytes 17 = some ⟨.lengthMismatch, 17, 18, 0⟩ ∧
      startVerdict Config.reference (startBytes ++ [0]) 18 = some ⟨.lengthMismatch, 19, 18, 0⟩ ∧
      startVerdict Config.reference startBytes 18 = none := by decide +kernel

/-- For the second clause of each round trip: a parse that succeeds. -/
theorem test_witness_round_trips_back :
    (∃ t, exec .asDec (receiving 1 1 18 startBytes) = .next t ∧ t.Ok) ∧
      (∃ t, exec .arDec (receiving 1 2 16 replyBytes) = .next t ∧ t.Ok) ∧
      (∃ t, exec .acDec (receiving 1 3 10 contBytes) = .next t ∧ t.Ok) :=
  ⟨⟨_, rfl, by decide +kernel⟩, ⟨_, rfl, by decide +kernel⟩, ⟨_, rfl, by decide +kernel⟩⟩

/-- For ArEncWritesReply and ReplyRoundTrip. -/
theorem test_witness_ArEncWritesReply :
    replyFieldVerdict full.params full.regs.arStatus full.regs.arFlags = none ∧ full.mem.wf = true ∧
      replyFieldVerdict Config.reference 0 0 = some ⟨.invalidField, 0, 0, 9⟩ ∧
      replyFieldVerdict Config.reference 1 2 = some ⟨.invalidField, 2, 0, 10⟩ := by decide +kernel

theorem test_witness_ReplyPresented : ReplyPresented (receiving 1 2 16 replyBytes) ⟨5, 1, passwordText, []⟩ := by
  unfold ReplyPresented; decide +kernel

/-- Each check of AR_DEC failing, at AR-D4, AR-D7, AR-D8, AR-D10, AR-D11, and all passing. -/
theorem test_witness_ArDecStoresReply :
    replyVerdict Config.reference (replyBytes.take 5) 5 = some ⟨.invalidSize, 6, 5, 0⟩ ∧
      replyVerdict Config.reference (replyBytes.set 1 0x02) 16 = some ⟨.invalidField, 2, 0, 10⟩ ∧
      replyVerdict Config.reference (replyBytes.take 15) 16 = some ⟨.invalidSize, 16, 15, 0⟩ ∧
      replyVerdict Config.reference replyBytes 15 = some ⟨.lengthMismatch, 15, 16, 0⟩ ∧
      replyVerdict Config.reference (replyBytes ++ [0]) 16 = some ⟨.lengthMismatch, 17, 16, 0⟩ ∧
      replyVerdict Config.reference replyBytes 16 = none := by decide +kernel

/-- For the last clause of ArDecStoresReply: the reset state's instance has the source's Reply flags, and a body of 6 bytes. -/
theorem test_witness_ArDecFlags :
    (∀ v, v ∈ State.reset.params.replyFlag ↔ v = 0x00 ∨ v = 0x01) ∧
      validAuthenStatus State.reset.params (([1, 2, 0, 0, 0, 0] : Bytes).getD 0 0) = true ∧
      ([1, 2, 0, 0, 0, 0] : Bytes).getD 1 0 ≠ 0x00 ∧ ([1, 2, 0, 0, 0, 0] : Bytes).getD 1 0 ≠ 0x01 := by decide +kernel

/-- For AcEncWritesContinue and ContinueRoundTrip. -/
theorem test_witness_AcEncWritesContinue :
    continueFieldVerdict full.params full.regs.acFlags = none ∧ full.mem.wf = true ∧ continueFieldVerdict Config.reference 1 = none ∧
      continueFieldVerdict Config.reference 2 = some ⟨.invalidField, 2, 0, 11⟩ := by decide +kernel

theorem test_witness_ContinuePresented : ContinuePresented (receiving 1 3 10 contBytes) ⟨0, [], pass3⟩ := by
  unfold ContinuePresented; decide +kernel

/-- Each check of AC_DEC failing, at AC-D4, AC-D6, AC-D7, AC-D8, AC-D9, and all passing. -/
theorem test_witness_AcDecStoresContinue :
    continueVerdict Config.reference (contBytes.take 4) 4 = some ⟨.invalidSize, 5, 4, 0⟩ ∧
      continueVerdict Config.reference [0xFF, 0xFF, 0xFF, 0xFF, 0x02] 5 = some ⟨.invalidField, 2, 0, 11⟩ ∧
      continueVerdict Config.reference (contBytes.set 3 0x06) 10 = some ⟨.invalidSize, 11, 10, 0⟩ ∧
      continueVerdict Config.reference contBytes 11 = some ⟨.lengthMismatch, 11, 10, 0⟩ ∧
      continueVerdict Config.reference (contBytes ++ [0]) 10 = some ⟨.lengthMismatch, 11, 10, 0⟩ ∧
      continueVerdict Config.reference contBytes 10 = none := by decide +kernel

theorem test_witness_SerialisedSizes :
    full.mem.wf = true ∧ (∃ t, exec .asEnc full = .next t ∧ t.Ok) ∧ (∃ t, exec .arEnc full = .next t ∧ t.Ok) ∧
      (∃ t, exec .acEnc full = .next t ∧ t.Ok) :=
  ⟨by decide +kernel, ⟨_, rfl, by decide +kernel⟩, ⟨_, rfl, by decide +kernel⟩, ⟨_, rfl, by decide +kernel⟩⟩

/-- The four fields of a Request, in their sets and each out of it (ZQ-5 to ZQ-8). -/
theorem test_witness_ZqEncWritesRequest :
    requestFieldVerdict full.params full.regs.zqMethod full.regs.privLvl full.regs.authenType full.regs.authenSvc = none ∧
      requestFieldVerdict Config.reference 7 1 1 1 = some ⟨.invalidField, 7, 0, 12⟩ ∧
      requestFieldVerdict Config.reference 6 16 1 1 = some ⟨.invalidField, 16, 0, 6⟩ ∧
      requestFieldVerdict Config.reference 6 1 0 1 = some ⟨.invalidField, 0, 0, 7⟩ ∧
      requestFieldVerdict Config.reference 6 1 1 4 = some ⟨.invalidField, 4, 0, 8⟩ := by decide +kernel

/-- ZQ_ENC then PKT_ASM succeed, and an argument index below ARG_CNT. -/
theorem test_witness_RequestTableConsistent :
    full.mem.wf = true ∧ 1 < full.regs.argCnt.toNat ∧
      ∃ t u, exec .zqEnc full = .next t ∧ t.Ok ∧ exec .pktAsm t = .next u ∧ u.Ok :=
  ⟨by decide +kernel, by decide +kernel, _, _, rfl, by decide +kernel, rfl, by decide +kernel⟩

theorem test_witness_AuthorReplyPresented :
    AuthorReplyPresented (receiving 2 2 18 zr2Bytes) 0x02 [[0x61, 0x3D, 0x62], [0x63, 0x3D, 0x64, 0x65]] [0x6F, 0x6B] [0xFF] := by
  unfold AuthorReplyPresented; decide +kernel

/-- Each check of ZR_DEC failing, at ZR-1, ZR-6, ZR-7, ZR-8, ZR-9, ZR-10, ZR-11, and all passing. -/
theorem test_witness_ZrDecStoresAuthorReply :
    let p := { Config.reference with hasAuthorReply := true }
    authorReplyVerdict Config.reference 2 zrBytes 18 = some ⟨.unsupportedType, 2, 2, 0⟩ ∧
      authorReplyVerdict p 2 (zrBytes.take 5) 5 = some ⟨.invalidSize, 6, 5, 0⟩ ∧
      authorReplyVerdict p 2 (zrBytes.set 0 0x03) 18 = some ⟨.invalidField, 3, 0, 13⟩ ∧
      authorReplyVerdict p 2 [0x01, 0x05, 0, 0, 0, 0] 6 = some ⟨.invalidSize, 11, 6, 0⟩ ∧
      authorReplyVerdict p 2 (zrBytes.take 17) 18 = some ⟨.invalidSize, 18, 17, 0⟩ ∧
      authorReplyVerdict p 2 zrBytes 17 = some ⟨.lengthMismatch, 17, 18, 0⟩ ∧
      authorReplyVerdict p 2 (zrBytes ++ [0]) 18 = some ⟨.lengthMismatch, 19, 18, 0⟩ ∧
      authorReplyVerdict p 2 zrBytes 18 = none := by decide +kernel

/-- For PktAsmAssemblesPacket: both verdicts none; the header's error; the null secret alone. -/
theorem test_witness_PktAsmAssemblesPacket :
    full.mem.wf = true ∧ headerVerdict full.params full.regs.header = none ∧
      secretVerdict full.regs.hFlags full.regs.secretPresent = none ∧ State.reset.mem.wf = true ∧
      headerVerdict State.reset.params State.reset.regs.header = some ⟨.invalidField, 0, 0, 3⟩ ∧
      headerVerdict Config.reference (hdrRegs 12 0 1 1 0x00 1 77).header = none ∧
      secretVerdict (hdrRegs 12 0 1 1 0x00 1 77).hFlags (hdrRegs 12 0 1 1 0x00 1 77).secretPresent =
        some ⟨.configError, 0, 0, 0⟩ := by decide +kernel

/-- For PktDisTakesPacketApart: a packet; and each check failing, at PD-3, PD-9, PD-5, PD-7, and all passing. -/
theorem test_witness_PktDisTakesPacketApart :
    packetW = headerBytes ⟨12, 0, 1, 1, 0, 1, 5⟩ ++ packetW.drop 12 ∧ (packetW.drop 12).length = (5 : Word).toNat ∧
      headerVerdict Config.reference ⟨12, 0, 1, 1, 0, 1, 5⟩ = none ∧ secretVerdict 0 1 = none ∧
      packetVerdict Config.reference (packetW.take 11) 1 = some ⟨.invalidSize, 12, 11, 0⟩ ∧
      packetVerdict Config.reference (packetW.set 1 0x04) 1 = some ⟨.invalidField, 4, 0, 3⟩ ∧
      packetVerdict Config.reference (packetW.take 16) 1 = some ⟨.lengthMismatch, 5, 4, 0⟩ ∧
      packetVerdict Config.reference packetW 0 = some ⟨.configError, 0, 0, 0⟩ ∧
      packetVerdict Config.reference packetW 1 = none := by decide +kernel

/-- For BodyDecDispatches: each row of the table at its boundary sequence numbers (the Start clause has
`test_witness_StartPresented`, at type 1 and sequence 1). -/
theorem test_witness_BodyDecDispatches :
    (receiving 1 1 18 startBytes).regs.hType = 1 ∧ (receiving 1 1 18 startBytes).regs.hSeq = 1 ∧
      [2, 254].map (bodyRoute 1) = [.reply, .reply] ∧ [3, 253].map (bodyRoute 1) = [.cont, .cont] ∧
      [0, 255].map (bodyRoute 1) = [.refuse ⟨.unsupportedType, 1, 0, 0⟩, .refuse ⟨.unsupportedType, 1, 255, 0⟩] ∧
      bodyRoute 2 2 = .authorReply ∧
      [1, 3].map (bodyRoute 2) = [.refuse ⟨.unsupportedType, 2, 1, 0⟩, .refuse ⟨.unsupportedType, 2, 3, 0⟩] ∧
      bodyRoute 3 2 = .refuse ⟨.unsupportedType, 3, 2, 0⟩ ∧
      [0, 4, 255].map (fun ty => bodyRoute ty 1) =
        [.refuse ⟨.invalidField, 0, 0, 3⟩, .refuse ⟨.invalidField, 4, 0, 3⟩, .refuse ⟨.invalidField, 255, 0, 3⟩] := by
  decide +kernel

/-- For AccountingHeaderAcceptedBodyUnsupported. -/
theorem test_witness_AccountingHeader :
    let s := { full with regs := { full.regs with hType := 3 } }
    s.regs.hType = 3 ∧ validMajor s.params s.regs.hMajor = true ∧ validMinor s.params s.regs.hMinor = true ∧
      validFlags s.regs.hFlags = true ∧ s.mem.wf = true ∧ secretVerdict s.regs.hFlags s.regs.secretPresent = none := by
  decide +kernel

theorem test_witness_AssemblyRoundTrip : full.mem.wf = true ∧ ∃ t, exec .pktAsm full = .next t ∧ t.Ok :=
  ⟨by decide +kernel, _, rfl, by decide +kernel⟩

/-- For AssemblyIsComposition: both commands succeed; HDR_ENC fails; CIPHER alone fails. -/
theorem test_witness_AssemblyIsComposition :
    (∃ a b, exec .hdrEnc full = .next a ∧ a.Ok ∧ exec .cipher a = .next b ∧ b.Ok) ∧
      (∃ a, exec .hdrEnc State.reset = .next a ∧ ¬a.Ok) ∧
      (∃ a b, exec .hdrEnc (put (hdrRegs 12 0 1 1 0 1 0) Memory.reset) = .next a ∧ a.Ok ∧ exec .cipher a = .next b ∧ ¬b.Ok) :=
  ⟨⟨_, _, rfl, by decide +kernel, rfl, by decide +kernel⟩, ⟨_, rfl, by decide +kernel⟩,
    ⟨_, _, rfl, by decide +kernel, rfl, by decide +kernel⟩⟩

/-- For AuthenticationEndToEnd: one block with every operand, another that holds only the secret, and the boundary sequence numbers
of the three bodies. -/
theorem test_witness_AuthenticationEndToEnd :
    let r := put { Regs.reset with secretPresent := 1 } { Memory.reset with secret := secretText }
    full.mem.wf = true ∧ r.params = full.params ∧ r.mem.secret = full.mem.secret ∧
      r.regs.secretPresent = full.regs.secretPresent ∧
      [1, 2, 254, 3, 253].all (fun q => headerVerdict full.params (fullAt q).regs.header == none) = true ∧
      secretVerdict full.regs.hFlags full.regs.secretPresent = none ∧ full.regs.hType = 1 ∧ full.NoFaultRecorded ∧
      r.NoFaultRecorded ∧ (fullAt 1).regs.hSeq = 1 ∧
      startFieldVerdict full.params full.regs.asAction full.regs.privLvl full.regs.authenType full.regs.authenSvc = none ∧
      (fullAt 254).regs.hSeq.toNat % 2 = 0 ∧ (fullAt 254).regs.hSeq ≠ 0 ∧
      replyFieldVerdict full.params full.regs.arStatus full.regs.arFlags = none ∧
      (fullAt 253).regs.hSeq.toNat % 2 = 1 ∧ 3 ≤ (fullAt 253).regs.hSeq.toNat ∧ (fullAt 253).regs.hSeq.toNat ≤ 253 ∧
      continueFieldVerdict full.params full.regs.acFlags = none := by decide +kernel

theorem test_witness_StepKeepsInvariant :
    ({ full with pending := [.regWrite .cmd 0x50] } : State).Inv ∧
      ∃ t, step { full with pending := [.regWrite .cmd 0x50] } = .next t :=
  ⟨by decide +kernel, _, rfl⟩

end Sys2Proof.Tests
end

/-! PROOFS. The closed sets, and the membership test each field's check makes (00_scope.md R5, R6, R7; 40_header_codec.md R94). -/

section
namespace Sys2Proof.Machine

theorem validMajor_iff (p : Params) (v : BitVec 4) : validMajor p v = true ↔ v = 1 ∨ v ∈ p.otherMajors := by
  simp [validMajor]

theorem validMinor_iff (p : Params) (v : BitVec 4) : validMinor p v = true ↔ v = 2 ∨ v ∈ p.otherMinors := by
  simp [validMinor]

theorem validContinueFlag_iff (p : Params) (v : Byte) :
    validContinueFlag p v = true ↔ v = 0x00 ∨ v ∈ p.otherContinueFlags := by
  simp [validContinueFlag]

theorem validReplyFlag_iff (p : Params) (v : Byte) : validReplyFlag p v = true ↔ v ∈ p.replyFlag :=
  List.contains_iff_mem

theorem validType_iff (v : Byte) : validType v = true ↔ v ∈ [0x01, 0x02, 0x03] := by
  simp [validType, or_assoc]

/-- `v & 0xFA = 0` leaves bits 0 and 2 free, hence four values. -/
theorem validFlags_iff (v : Byte) : validFlags v = true ↔ v ∈ [0x00, 0x01, 0x04, 0x05] := by
  revert v; decide

theorem validPrivLvl_iff (v : Byte) : validPrivLvl v = true ↔ v.toNat ≤ 15 := decide_eq_true_iff

end Sys2Proof.Machine
end

section
open Sys2Proof Sys2Proof.Machine

/-- Settles O27: each test is membership in its set; in the reset state's instance the flag sets are the reference ones. -/
theorem closedSets : Obligations.ClosedSets := by
  refine ⟨fun p => ⟨?_, ?_, ?_⟩, fun p v => ⟨validMajor_iff p v, validMinor_iff p v⟩,
    fun v => ⟨validType_iff v, validFlags_iff v, validPrivLvl_iff v⟩, fun p v => ?_, fun v => ⟨?_, ?_⟩⟩
  · exact (validMajor_iff p 1).2 (.inl rfl)
  · exact (validMinor_iff p 2).2 (.inl rfl)
  · exact (validContinueFlag_iff p 0x00).2 (.inl rfl)
  · exact ⟨List.contains_iff_mem, List.contains_iff_mem, List.contains_iff_mem, List.contains_iff_mem,
      validReplyFlag_iff p v, validContinueFlag_iff p v, List.contains_iff_mem, List.contains_iff_mem⟩
  · exact validReplyFlag_iff _ v
  · exact (validContinueFlag_iff _ v).trans List.mem_cons.symm

end

/-! PROOFS. What a write to CMD leaves in the status registers, for a legal word and for any other (20_memory.md R53). -/

section
namespace Sys2Proof.Machine

/-- An error of a kind the block raises, with a field id of R233 or 0, leaves the status registers as R239 says. -/
theorem State.enterError_statusOk {e : CmdError} (s : State) (hk : e.kind.code ∈ blockCodes) (hf : e.f ≤ 13) :
    (s.enterError e).regs.StatusOk := by
  refine ⟨by simp, by simpa using hk, by simp, fun h => absurd h (s.enterError_not_ok e), ?_⟩
  rw [State.enterError_errF, BitVec.toNat_ofNat]
  omega

/-- Whatever byte is written to CMD, the status registers are then as a command leaves them. -/
theorem runCommand_statusOk {op : Byte} {s t : State} (h : runCommand op s = .next t) : t.regs.StatusOk := by
  by_cases hd : ∃ i, decode op = .ok i
  · obtain ⟨i, hi⟩ := hd
    obtain ⟨v, after, hform⟩ := command_form i s
    rw [runCommand_ok hi, hform.eq] at h
    cases h
    exact hform.statusOk
  · rw [runCommand_error (by simpa using hd)] at h
    cases h
    exact s.enterError_statusOk (show 8 ∈ blockCodes by decide) (Nat.zero_le 13)

end Sys2Proof.Machine
end

section
open Sys2Proof Sys2Proof.Machine

/-- Settles O13: the step is `runCommand`, which always answers a next state and leaves a code of `blockCodes`. -/
theorem commandWriteAlwaysCompletes : Obligations.CommandWriteAlwaysCompletes := by
  intro s op rest h
  obtain ⟨t, ht, hpending, -, -⟩ := runCommand_kept op { s with pending := rest, answer := none }
  obtain ⟨-, hcode, -⟩ := runCommand_statusOk ht
  exact ⟨t, (step_cons h).trans ht, hpending, hcode⟩

end

/-! PROOFS. Noninterference (00_scope.md R19): two runs of a command, in states that agree on what it reads, end alike. -/

section
namespace Sys2Proof.Machine

/-- `a` comes from `s` and `a'` from `s'` by the same writes: whatever differs afterwards was not written in either. The status
registers are left to the command's end. -/
structure SameWrites (s s' a a' : State) : Prop where
  regs : ∀ r, r.isStatus = false → a.regs.read r = a'.regs.read r ∨
    (a.regs.read r = s.regs.read r ∧ a'.regs.read r = s'.regs.read r)
  mem : ∀ b, a.mem.read b = a'.mem.read b ∨ (a.mem.read b = s.mem.read b ∧ a'.mem.read b = s'.mem.read b)

/-- `t` and `t'` are the ends of two runs, from `s` and `s'`, with one verdict and the same writes. -/
def EndAlike (s s' t t' : State) : Prop :=
  ∃ v a a', t = s.conclude v a ∧ t' = s'.conclude v a' ∧ SameWrites s s' a a'

section
variable {s s' : State}

/-! ### The commands' writes -/

theorem SameWrites.untouched : SameWrites s s' s s' where
  regs _ _ := .inr ⟨rfl, rfl⟩
  mem _ := .inr ⟨rfl, rfl⟩

theorem SameWrites.trans {a a' b b' : State} (h : SameWrites s s' a a') (h' : SameWrites a a' b b') :
    SameWrites s s' b b' where
  regs r hr := by
    obtain heq | ⟨hb, hb'⟩ := h'.regs r hr
    · exact .inl heq
    · rw [hb, hb']; exact h.regs r hr
  mem x := by
    obtain heq | ⟨hb, hb'⟩ := h'.mem x
    · exact .inl heq
    · rw [hb, hb']; exact h.mem x

theorem SameWrites.writeBuf (b : Buf) (bs : Bytes) : SameWrites s s' (s.writeBuf b bs) (s'.writeBuf b bs) where
  regs _ _ := .inr ⟨rfl, rfl⟩
  mem b' := by
    by_cases h : b' = b
    · subst h; exact .inl (by simp)
    · exact .inr ⟨Memory.read_write_other _ _ h, Memory.read_write_other _ _ h⟩

theorem SameWrites.clearFault : SameWrites s s' s.clearFault s'.clearFault where
  regs r hr := by
    cases r
    case status | errA | errB | errF => cases hr
    all_goals exact .inr ⟨rfl, rfl⟩
  mem _ := .inr ⟨rfl, rfl⟩

theorem SameWrites.resetBlock : SameWrites s s' s.resetBlock s'.resetBlock where
  regs _ _ := .inl rfl
  mem _ := .inl rfl

theorem SameWrites.setHeader (h : Header) :
    SameWrites s s' { s with regs := s.regs.setHeader h } { s' with regs := s'.regs.setHeader h } where
  regs r _ := by
    cases r
    case hMajor | hMinor | hType | hSeq | hFlags | hSid | hLen | hDerived => exact .inl rfl
    all_goals exact .inr ⟨rfl, rfl⟩
  mem _ := .inr ⟨rfl, rfl⟩

theorem SameWrites.setHLen (len : Word) :
    SameWrites s s' { s with regs := { s.regs with hLen := len } } { s' with regs := { s'.regs with hLen := len } } where
  regs r _ := by
    cases r
    case hLen => exact .inl rfl
    all_goals exact .inr ⟨rfl, rfl⟩
  mem _ := .inr ⟨rfl, rfl⟩

theorem SameWrites.putStart (r : StartRecord) : SameWrites s s' (s.putStart r) (s'.putStart r) where
  regs r _ := by
    cases r
    case asAction | privLvl | authenType | authenSvc => exact .inl rfl
    all_goals exact .inr ⟨rfl, rfl⟩
  mem b := by
    cases b
    case user | port | remAddr | content => exact .inl rfl
    all_goals exact .inr ⟨rfl, rfl⟩

theorem SameWrites.putReply (r : ReplyRecord) : SameWrites s s' (s.putReply r) (s'.putReply r) where
  regs r _ := by
    cases r
    case arStatus | arFlags => exact .inl rfl
    all_goals exact .inr ⟨rfl, rfl⟩
  mem b := by
    cases b
    case msg | data => exact .inl rfl
    all_goals exact .inr ⟨rfl, rfl⟩

theorem SameWrites.putContinue (r : ContinueRecord) : SameWrites s s' (s.putContinue r) (s'.putContinue r) where
  regs r _ := by
    cases r
    case acFlags => exact .inl rfl
    all_goals exact .inr ⟨rfl, rfl⟩
  mem b := by
    cases b
    case msg | data => exact .inl rfl
    all_goals exact .inr ⟨rfl, rfl⟩

/-- An argument buffer below the record's count takes its value, one from the count up keeps its content (43_author_codec.md
R185). -/
theorem SameWrites.putAuthorReply (r : AuthorReplyRecord) :
    SameWrites s s' (s.putAuthorReply r) (s'.putAuthorReply r) where
  regs r _ := by
    cases r
    case zrStatus | argCnt => exact .inl rfl
    all_goals exact .inr ⟨rfl, rfl⟩
  mem b := by
    cases b
    case msg | data => exact .inl rfl
    case arg i =>
      have hread (u : State) : (u.putAuthorReply r).mem.read (.arg i) = r.args.getD i (u.mem.read (.arg i)) :=
        writeArgs_getElem r.args u.mem.args 0 i i.isLt
      simp only [hread]
      rcases lt_or_ge i.val r.args.length with hi | hi
      · exact .inl (by rw [List.getD_eq_getElem _ _ hi, List.getD_eq_getElem _ _ hi])
      · exact .inr ⟨List.getD_eq_default _ _ hi, List.getD_eq_default _ _ hi⟩
    all_goals exact .inr ⟨rfl, rfl⟩

/-! ### The ends of two runs -/

theorem EndAlike.status_eq {t t' : State} (h : EndAlike s s' t t') :
    statusErr t.regs.status = statusErr t'.regs.status ∧
    t.regs.errA = t'.regs.errA ∧ t.regs.errB = t'.regs.errB ∧ t.regs.errF = t'.regs.errF := by
  obtain ⟨v, a, a', rfl, rfl, -⟩ := h
  cases v with
  | none => exact ⟨by simp, rfl, rfl, rfl⟩
  | some e => exact ⟨by simp, rfl, rfl, rfl⟩

/-- Success keeps the writes of both runs; an error discards them in both. -/
theorem EndAlike.sameWrites {t t' : State} (h : EndAlike s s' t t') : SameWrites s s' t t' := by
  obtain ⟨v, a, a', rfl, rfl, hw⟩ := h
  cases v with
  | none =>
    refine ⟨fun r hr => ?_, hw.mem⟩
    simp only [State.conclude_none, State.complete_read hr]
    exact hw.regs r hr
  | some e =>
    exact ⟨fun r hr => .inr ⟨State.enterError_read hr s e, State.enterError_read hr s' e⟩, fun _ => .inr ⟨rfl, rfl⟩⟩

/-- Of the status registers only STATUS can differ, in the latch, which is not an operand (60_exceptions.md R240). -/
theorem EndAlike.read_eq_or_untouched {t t' : State} (h : EndAlike s s' t t') (r : Reg) (hr : r ≠ .status) :
    t.regs.read r = t'.regs.read r ∨ (t.regs.read r = s.regs.read r ∧ t'.regs.read r = s'.regs.read r) := by
  obtain ⟨-, ha, hb, hf⟩ := h.status_eq
  cases r
  case status => exact absurd rfl hr
  case errA => exact .inl ha
  case errB => exact .inl hb
  case errF => exact .inl hf
  all_goals exact h.sameWrites.regs _ rfl

/-! ### The parsers -/

theorem parseStart_endAlike (hp : s.params = s'.params) (hb : s.mem.body = s'.mem.body) (hl : s.regs.hLen = s'.regs.hLen) :
    EndAlike s s' s.parseStart s'.parseStart := by
  rw [parseStart_eq, parseStart_eq, hp, hb, hl]
  exact ⟨_, _, _, rfl, rfl, .putStart _⟩

theorem parseReply_endAlike (hp : s.params = s'.params) (hb : s.mem.body = s'.mem.body) (hl : s.regs.hLen = s'.regs.hLen) :
    EndAlike s s' s.parseReply s'.parseReply := by
  rw [parseReply_eq, parseReply_eq, hp, hb, hl]
  exact ⟨_, _, _, rfl, rfl, .putReply _⟩

theorem parseContinue_endAlike (hp : s.params = s'.params) (hb : s.mem.body = s'.mem.body)
    (hl : s.regs.hLen = s'.regs.hLen) : EndAlike s s' s.parseContinue s'.parseContinue := by
  rw [parseContinue_eq, parseContinue_eq, hp, hb, hl]
  exact ⟨_, _, _, rfl, rfl, .putContinue _⟩

theorem parseAuthorReply_endAlike (hp : s.params = s'.params) (hb : s.mem.body = s'.mem.body)
    (hl : s.regs.hLen = s'.regs.hLen) (hq : s.regs.hSeq = s'.regs.hSeq) :
    EndAlike s s' s.parseAuthorReply s'.parseAuthorReply := by
  rw [parseAuthorReply_eq, parseAuthorReply_eq, hp, hb, hl, hq]
  exact ⟨_, _, _, rfl, rfl, .putAuthorReply _⟩

theorem parseBody_endAlike (route : BodyRoute) (hp : s.params = s'.params) (hb : s.mem.body = s'.mem.body)
    (hl : s.regs.hLen = s'.regs.hLen) (hq : s.regs.hSeq = s'.regs.hSeq) :
    EndAlike s s' (s.parseBody route) (s'.parseBody route) := by
  cases route with
  | start => exact parseStart_endAlike hp hb hl
  | reply => exact parseReply_endAlike hp hb hl
  | cont => exact parseContinue_endAlike hp hb hl
  | authorReply => exact parseAuthorReply_endAlike hp hb hl hq
  | refuse e => exact ⟨some e, s, s', rfl, rfl, .untouched⟩

/-! ### The two runs -/

/-- The arguments in use are those below `ARG_CNT`, so states that agree on them hold the same arguments (10_state.md R30). -/
theorem argsBelow_congr {m m' : Memory} {n : Nat} (h : ∀ i : Fin 255, i.val < n → m.read (.arg i) = m'.read (.arg i)) :
    argsBelow m n = argsBelow m' n := by
  refine List.map_congr_left fun i hi => ?_
  rw [List.mem_range] at hi
  by_cases h255 : i < 255
  · simpa [h255, Memory.read] using h ⟨i, h255⟩ hi
  · simp [h255]

/-- The states agree on the parameters and on the "reads" column of a command (30_encoding.md R72). -/
structure AgreeOnReads (i : Instr) (s s' : State) : Prop where
  params : s.params = s'.params
  regs : ∀ r, readsReg i r = true → s.regs.read r = s'.regs.read r
  mem : ∀ b, readsBuf i s.regs.argCnt b = true → s.mem.read b = s'.mem.read b

/-- Both runs of a command end in a next state, and these end alike. -/
def RunsAlike (i : Instr) (s s' : State) : Prop :=
  ∃ t t', exec i s = .next t ∧ exec i s' = .next t' ∧ EndAlike s s' t t'

theorem RunsAlike.of_conclude {i : Instr} {v v' : Option CmdError} {a a' : State} (h : exec i s = .next (s.conclude v a))
    (h' : exec i s' = .next (s'.conclude v' a')) (hv : v = v') (hw : SameWrites s s' a a') : RunsAlike i s s' :=
  ⟨_, _, h, h', v, a, a', rfl, by rw [hv], hw⟩

theorem hdrEnc_runsAlike (h : AgreeOnReads .hdrEnc s s') : RunsAlike .hdrEnc s s' := by
  have hheader : s.regs.header = s'.regs.header := by
    simp only [Regs.header, Header.mk.injEq]
    exact ⟨h.regs .hMajor rfl, h.regs .hMinor rfl, h.regs .hType rfl, h.regs .hSeq rfl, h.regs .hFlags rfl,
      h.regs .hSid rfl, h.regs .hLen rfl⟩
  refine .of_conclude (exec_hdrEnc s) (exec_hdrEnc s') (by rw [h.params, hheader]) ?_
  rw [hheader]
  exact .writeBuf _ _

theorem hdrDec_runsAlike (h : AgreeOnReads .hdrDec s s') : RunsAlike .hdrDec s s' := by
  have hbuf : s.mem.hbuf = s'.mem.hbuf := h.mem .hbuf rfl
  refine .of_conclude (exec_hdrDec s) (exec_hdrDec s') (by rw [h.params, hbuf]) ?_
  rw [hbuf]
  exact .setHeader _

/-- The type and the length are not read (41_body_cipher.md R117). -/
theorem cipher_runsAlike (h : AgreeOnReads .cipher s s') : RunsAlike .cipher s s' := by
  have hflags : s.regs.hFlags = s'.regs.hFlags := h.regs .hFlags rfl
  have hpresent : s.regs.secretPresent = s'.regs.secretPresent := h.regs .secretPresent rfl
  have hbody : s.mem.body = s'.mem.body := h.mem .body rfl
  have hsecret : s.mem.secret = s'.mem.secret := h.mem .secret rfl
  have hciphered : cipherBody s.regs.header s.mem.secret s.mem.body =
      cipherBody s'.regs.header s'.mem.secret s'.mem.body := by
    rw [hbody, hsecret]
    exact cipherBody_congr _ _ (h.regs .hSid rfl) (h.regs .hMajor rfl) (h.regs .hMinor rfl) (h.regs .hSeq rfl) hflags
  refine .of_conclude (exec_cipher s) (exec_cipher s') (by rw [hflags, hpresent]) ?_
  rw [hciphered]
  exact .writeBuf _ _

theorem asEnc_runsAlike (h : AgreeOnReads .asEnc s s') : RunsAlike .asEnc s s' := by
  have haction : s.regs.asAction = s'.regs.asAction := h.regs .asAction rfl
  have hpriv : s.regs.privLvl = s'.regs.privLvl := h.regs .privLvl rfl
  have htype : s.regs.authenType = s'.regs.authenType := h.regs .authenType rfl
  have hsvc : s.regs.authenSvc = s'.regs.authenSvc := h.regs .authenSvc rfl
  have hrecord : s.startRecord = s'.startRecord := by
    simp only [State.startRecord, StartRecord.mk.injEq]
    exact ⟨haction, hpriv, htype, hsvc, h.mem .user rfl, h.mem .port rfl, h.mem .remAddr rfl, h.mem .content rfl⟩
  refine .of_conclude (exec_asEnc s) (exec_asEnc s') (by rw [h.params, haction, hpriv, htype, hsvc]) ?_
  rw [hrecord]
  exact .writeBuf _ _

theorem arEnc_runsAlike (h : AgreeOnReads .arEnc s s') : RunsAlike .arEnc s s' := by
  have hstatus : s.regs.arStatus = s'.regs.arStatus := h.regs .arStatus rfl
  have hflags : s.regs.arFlags = s'.regs.arFlags := h.regs .arFlags rfl
  have hrecord : s.replyRecord = s'.replyRecord := by
    simp only [State.replyRecord, ReplyRecord.mk.injEq]
    exact ⟨hstatus, hflags, h.mem .msg rfl, h.mem .data rfl⟩
  refine .of_conclude (exec_arEnc s) (exec_arEnc s') (by rw [h.params, hstatus, hflags]) ?_
  rw [hrecord]
  exact .writeBuf _ _

theorem acEnc_runsAlike (h : AgreeOnReads .acEnc s s') : RunsAlike .acEnc s s' := by
  have hflags : s.regs.acFlags = s'.regs.acFlags := h.regs .acFlags rfl
  have hrecord : s.continueRecord = s'.continueRecord := by
    simp only [State.continueRecord, ContinueRecord.mk.injEq]
    exact ⟨hflags, h.mem .msg rfl, h.mem .data rfl⟩
  refine .of_conclude (exec_acEnc s) (exec_acEnc s') (by rw [h.params, hflags]) ?_
  rw [hrecord]
  exact .writeBuf _ _

theorem zqEnc_runsAlike (h : AgreeOnReads .zqEnc s s') : RunsAlike .zqEnc s s' := by
  have hmethod : s.regs.zqMethod = s'.regs.zqMethod := h.regs .zqMethod rfl
  have hpriv : s.regs.privLvl = s'.regs.privLvl := h.regs .privLvl rfl
  have htype : s.regs.authenType = s'.regs.authenType := h.regs .authenType rfl
  have hsvc : s.regs.authenSvc = s'.regs.authenSvc := h.regs .authenSvc rfl
  have hcnt : s.regs.argCnt = s'.regs.argCnt := h.regs .argCnt rfl
  have huser : s.mem.user = s'.mem.user := h.mem .user rfl
  have hport : s.mem.port = s'.mem.port := h.mem .port rfl
  have haddr : s.mem.remAddr = s'.mem.remAddr := h.mem .remAddr rfl
  have hargs : argsBelow s.mem s.regs.argCnt.toNat = argsBelow s'.mem s.regs.argCnt.toNat :=
    argsBelow_congr fun i hi => h.mem (.arg i) (decide_eq_true hi)
  have hbody : requestBody s.regs s.mem = requestBody s'.regs s'.mem := by
    simp only [requestBody, hargs]
    rw [hmethod, hpriv, htype, hsvc, hcnt, huser, hport, haddr]
  refine .of_conclude (exec_zqEnc s) (exec_zqEnc s') (by rw [h.params, hmethod, hpriv, htype, hsvc]) ?_
  rw [hbody]
  exact .writeBuf _ _

/-- The header packed takes its length from BODY, so `H_LEN` is not read (44_packet_ops.md R201). -/
theorem pktAsm_runsAlike (h : AgreeOnReads .pktAsm s s') : RunsAlike .pktAsm s s' := by
  have hflags : s.regs.hFlags = s'.regs.hFlags := h.regs .hFlags rfl
  have hpresent : s.regs.secretPresent = s'.regs.secretPresent := h.regs .secretPresent rfl
  have hbody : s.mem.body = s'.mem.body := h.mem .body rfl
  have hsecret : s.mem.secret = s'.mem.secret := h.mem .secret rfl
  have hheader : s.outHeader = s'.outHeader := by
    simp only [State.outHeader, Regs.header, Header.mk.injEq]
    exact ⟨h.regs .hMajor rfl, h.regs .hMinor rfl, h.regs .hType rfl, h.regs .hSeq rfl, hflags, h.regs .hSid rfl,
      by rw [hbody]⟩
  have hverdict : headerVerdict s.params s.regs.header = headerVerdict s'.params s'.regs.header := by
    rw [h.params]
    exact headerVerdict_congr _ (h.regs .hMajor rfl) (h.regs .hMinor rfl) (h.regs .hType rfl) hflags
  refine .of_conclude (exec_pktAsm s) (exec_pktAsm s') (by rw [hverdict, hflags, hpresent]) ?_
  rw [hheader, hsecret, hbody]
  exact (SameWrites.setHLen s'.outHeader.len).trans (.writeBuf .wire _)

theorem pktDis_runsAlike (h : AgreeOnReads .pktDis s s') : RunsAlike .pktDis s s' := by
  have hpresent : s.regs.secretPresent = s'.regs.secretPresent := h.regs .secretPresent rfl
  have hwire : s.mem.wire = s'.mem.wire := h.mem .wire rfl
  have hsecret : s.mem.secret = s'.mem.secret := h.mem .secret rfl
  refine .of_conclude (exec_pktDis s) (exec_pktDis s') (by rw [h.params, hwire, hpresent]) ?_
  rw [hwire, hsecret]
  exact (SameWrites.setHeader (hdrUnpack s'.mem.wire)).trans (.writeBuf .body _)

/-- The row of the dispatch table is chosen from `H_TYPE` and `H_SEQ`, which the command reads (44_packet_ops.md R203). -/
theorem bodyDec_runsAlike (h : AgreeOnReads .bodyDec s s') : RunsAlike .bodyDec s s' := by
  have htype : s.regs.hType = s'.regs.hType := h.regs .hType rfl
  have hseq : s.regs.hSeq = s'.regs.hSeq := h.regs .hSeq rfl
  refine ⟨_, _, rfl, rfl, ?_⟩
  rw [htype, hseq]
  exact parseBody_endAlike _ h.params (h.mem .body rfl) (h.regs .hLen rfl) hseq

/-- Two runs of a command, in states that agree on what it reads, end alike. -/
theorem AgreeOnReads.runsAlike {i : Instr} (h : AgreeOnReads i s s') : RunsAlike i s s' := by
  cases i with
  | nop => exact .of_conclude (v := none) rfl rfl rfl .untouched
  | clrf => exact .of_conclude (v := none) rfl rfl rfl .clearFault
  | srst => exact .of_conclude (v := none) rfl rfl rfl .resetBlock
  | hdrEnc => exact hdrEnc_runsAlike h
  | hdrDec => exact hdrDec_runsAlike h
  | cipher => exact cipher_runsAlike h
  | asEnc => exact asEnc_runsAlike h
  | asDec => exact ⟨_, _, rfl, rfl, parseStart_endAlike h.params (h.mem .body rfl) (h.regs .hLen rfl)⟩
  | arEnc => exact arEnc_runsAlike h
  | arDec => exact ⟨_, _, rfl, rfl, parseReply_endAlike h.params (h.mem .body rfl) (h.regs .hLen rfl)⟩
  | acEnc => exact acEnc_runsAlike h
  | acDec => exact ⟨_, _, rfl, rfl, parseContinue_endAlike h.params (h.mem .body rfl) (h.regs .hLen rfl)⟩
  | zqEnc => exact zqEnc_runsAlike h
  | zrDec =>
    exact ⟨_, _, rfl, rfl,
      parseAuthorReply_endAlike h.params (h.mem .body rfl) (h.regs .hLen rfl) (h.regs .hSeq rfl)⟩
  | pktAsm => exact pktAsm_runsAlike h
  | pktDis => exact pktDis_runsAlike h
  | bodyDec => exact bodyDec_runsAlike h

end
end Sys2Proof.Machine
end

section
open Sys2Proof Sys2Proof.Machine

/-- Settles O26: both runs reach one verdict and make the same writes, command by command. -/
theorem commandReadsOnlyItsOperands : Obligations.CommandReadsOnlyItsOperands := by
  intro i s s' hparams hregs hmem
  have hagree : AgreeOnReads i s s' := ⟨hparams, hregs, hmem⟩
  obtain ⟨t, t', ht, ht', hend⟩ := hagree.runsAlike
  obtain ⟨herr, ha, hb, hf⟩ := hend.status_eq
  exact ⟨t, t', ht, ht', herr, ha, hb, hf, hend.read_eq_or_untouched, hend.sameWrites.mem⟩

end

/-! PROOFS. The invariant of the block holds at reset and every step keeps it; no step changes the parameters (10_state.md R25, R28,
R34, R35). -/

section
namespace Sys2Proof.Machine

/-! ### The status registers and the buffers, operation by operation -/

theorem Regs.reset_statusOk : Regs.reset.StatusOk := by decide

/-- The four status registers are read only: the host's writes leave them alone (20_memory.md R52). -/
theorem Regs.write_statusOk {x : Regs} (h : x.StatusOk) (r : Reg) (v : BitVec r.width) : (x.write r v).StatusOk := by
  cases r <;> exact h

theorem State.resetBlock_inv (s : State) : s.resetBlock.Inv := ⟨Memory.wf_reset, Regs.reset_statusOk⟩

theorem State.resetWith_inv (p : Params) : (State.resetWith p).Inv := ⟨Memory.wf_reset, Regs.reset_statusOk⟩

/-- A command that ends in an error writes no buffer; one that succeeds writes within the caps. -/
theorem CommandForm.conclude_wf {i : Instr} {s after : State} {v : Option CmdError} (h : CommandForm i s v after)
    (hwf : s.mem.wf = true) : (s.conclude v after).mem.wf = true := by
  cases v with
  | none => exact h.wf hwf rfl
  | some e => exact hwf

/-- Whatever byte is written to CMD, every buffer stays within its cap. -/
theorem runCommand_wf {op : Byte} {s t : State} (hwf : s.mem.wf = true) (h : runCommand op s = .next t) :
    t.mem.wf = true := by
  by_cases hd : ∃ i, decode op = .ok i
  · obtain ⟨i, hi⟩ := hd
    obtain ⟨v, after, hform⟩ := command_form i s
    rw [runCommand_ok hi, hform.eq] at h
    cases h
    exact hform.conclude_wf hwf
  · rw [runCommand_error (by simpa using hd)] at h
    cases h
    exact hwf

/-! ### One transaction, then one step -/

theorem runTxn_inv {x : HostTxn} {s t : State} (hinv : s.Inv) (h : runTxn x s = .next t) : t.Inv := by
  obtain ⟨hwf, hstatus⟩ := hinv
  obtain ⟨op, -, hrun⟩ | ⟨-, rfl⟩ | ⟨r, v, -, -, rfl⟩ | ⟨b, bytes, -, hcap, rfl⟩ | ⟨a, rfl⟩ := runTxn_cases h
  · exact ⟨runCommand_wf hwf hrun, runCommand_statusOk hrun⟩
  · exact s.resetBlock_inv
  · exact ⟨hwf, Regs.write_statusOk hstatus r v⟩
  · exact ⟨State.writeBuf_wf hwf hcap, hstatus⟩
  · exact ⟨hwf, hstatus⟩

theorem runTxn_params {x : HostTxn} {s t : State} (h : runTxn x s = .next t) : t.params = s.params := by
  obtain ⟨op, -, hrun⟩ | ⟨-, rfl⟩ | ⟨r, v, -, -, rfl⟩ | ⟨b, bytes, -, -, rfl⟩ | ⟨a, rfl⟩ := runTxn_cases h
  · obtain ⟨u, hu, -, hparams, -⟩ := runCommand_kept op s
    cases hrun.symm.trans hu
    exact hparams
  all_goals rfl

/-- A step that answers a next state waits, or performs the first of the host's transactions (10_state.md R21; 20_memory.md R61). -/
theorem step_cases {s t : State} (h : step s = .next t) :
    (s.pending = [] ∧ t = s) ∨
    (∃ x rest, s.pending = x :: rest ∧ runTxn x { s with pending := rest, answer := none } = .next t) := by
  cases hp : s.pending with
  | nil =>
    rw [step_nil hp] at h
    cases h
    exact .inl ⟨rfl, rfl⟩
  | cons x rest => exact .inr ⟨x, rest, rfl, (step_cons hp).symm.trans h⟩

end Sys2Proof.Machine
end

section
open Sys2Proof Sys2Proof.Machine

/-- Settles O60: the invariant speaks of buffers and registers only, so a step keeps it as the one transaction it performs does. -/
theorem stepKeepsInvariant : Obligations.StepKeepsInvariant := by
  intro s t hinv h
  obtain ⟨-, rfl⟩ | ⟨x, rest, -, hrun⟩ := step_cases h
  · exact hinv
  · exact runTxn_inv (s := { s with pending := rest, answer := none }) hinv hrun

/-- Settles O59: every buffer is empty and every register 0, whatever the parameters. -/
theorem invariantHoldsAtReset : Obligations.InvariantHoldsAtReset :=
  ⟨State.resetWith_inv Config.reference, State.resetWith_inv⟩

/-- Settles O12: no transaction writes the parameters, and neither does a command. -/
theorem stepKeepsParameters : Obligations.StepKeepsParameters := by
  intro s t h
  obtain ⟨-, rfl⟩ | ⟨x, rest, -, hrun⟩ := step_cases h
  · rfl
  · exact runTxn_params (s := { s with pending := rest, answer := none }) hrun

end

/-! PROOFS. H_DERIVED bit by bit (10_state.md R24). -/

section
namespace Sys2Proof.Machine

/-- Bit 0 of `H_DERIVED`, `IS_ENCRYPTED`: the Unencrypted flag is clear. -/
theorem hDerived_isEncrypted (f : Byte) : (hDerived f).getLsbD 0 = decide (f &&& 0x01 = 0) := by
  rw [hDerived, BitVec.getLsbD_append, Bool.eq_iff_iff]
  simp [flagUnencrypted]

/-- Bit 1 of `H_DERIVED`, `IS_SINGLE_CONNECT`: the SingleConnect flag is set. -/
theorem hDerived_isSingleConnect (f : Byte) : (hDerived f).getLsbD 1 = decide (f &&& 0x04 ≠ 0) := by
  rw [hDerived, BitVec.getLsbD_append, Bool.eq_iff_iff]
  simp [flagSingleConnect]

end Sys2Proof.Machine
end

section
open Sys2Proof Sys2Proof.Machine

/-- Settles O20: reading `H_DERIVED` computes both bits from `H_FLAGS`; the six listed values are evaluations. -/
theorem derivedFlagsFollowFlags : Obligations.DerivedFlagsFollowFlags :=
  ⟨fun x => ⟨hDerived_isEncrypted x.hFlags, hDerived_isSingleConnect x.hFlags⟩, by decide⟩

end

/-! PROOFS. The reset state as the commands see it: the invalid type, the null secret, empty buffers (10_state.md R35;
70_reset_and_hazards.md R262). -/

section
namespace Sys2Proof.Machine

/-! ### The verdicts on what reset leaves -/

/-- Type 0 is valid under no parameters, so the header of the reset state fails at the type at the latest. -/
theorem headerVerdict_reset (p : Params) : headerVerdict p Regs.reset.header =
    some ⟨.invalidField, 0, 0, if validMajor p 0 = false then 1 else if validMinor p 0 = false then 2 else 3⟩ := by
  have htype : validType Regs.reset.header.ptype = false := by decide
  rw [headerVerdict, if_pos htype]
  change (if validMajor p 0 = false then _ else if validMinor p 0 = false then _ else _) = _
  split_ifs <;> rfl

theorem hdrDecVerdict_nil (p : Params) : hdrDecVerdict p [] = some ⟨.invalidSize, 12, 0, 0⟩ := rfl

theorem packetVerdict_nil (p : Params) (present : BitVec 1) :
    packetVerdict p [] present = some ⟨.invalidSize, 12, 0, 0⟩ := rfl

theorem startVerdict_nil (p : Params) (l : Nat) : startVerdict p [] l = some ⟨.invalidSize, 8, 0, 0⟩ := rfl

theorem replyVerdict_nil (p : Params) (l : Nat) : replyVerdict p [] l = some ⟨.invalidSize, 6, 0, 0⟩ := rfl

theorem continueVerdict_nil (p : Params) (l : Nat) : continueVerdict p [] l = some ⟨.invalidSize, 5, 0, 0⟩ := rfl

/-- The gate on `HAS_AUTHOR_REPLY` comes before the size check. -/
theorem authorReplyVerdict_nil (p : Params) (seq : Byte) (l : Nat) : authorReplyVerdict p seq [] l =
    some (if p.hasAuthorReply then ⟨.invalidSize, 6, 0, 0⟩ else ⟨.unsupportedType, 2, seq.toNat, 0⟩) := by
  cases h : p.hasAuthorReply <;> simp [authorReplyVerdict, h]

/-- The null secret, with the Unencrypted flag clear. -/
theorem secretVerdict_reset : secretVerdict 0 0 = some ⟨.configError, 0, 0, 0⟩ := by decide

/-- 0x00 is a Continue flag whatever the parameters (log entry 4). -/
theorem continueFieldVerdict_zero (p : Params) : continueFieldVerdict p 0 = none := by
  rw [continueFieldVerdict, if_neg]
  rw [(validContinueFlag_iff p 0).2 (.inl rfl)]
  decide

/-! ### The commands -/

theorem exec_asDec (s : State) : exec .asDec s =
    .next (s.conclude (startVerdict s.params s.mem.body s.regs.hLen.toNat) (s.putStart (unpackStart s.mem.body))) :=
  congrArg Host.Outcome.next (parseStart_eq s)

theorem exec_arDec (s : State) : exec .arDec s =
    .next (s.conclude (replyVerdict s.params s.mem.body s.regs.hLen.toNat) (s.putReply (unpackReply s.mem.body))) :=
  congrArg Host.Outcome.next (parseReply_eq s)

theorem exec_acDec (s : State) : exec .acDec s =
    .next (s.conclude (continueVerdict s.params s.mem.body s.regs.hLen.toNat)
      (s.putContinue (unpackContinue s.mem.body))) :=
  congrArg Host.Outcome.next (parseContinue_eq s)

theorem exec_zrDec (s : State) : exec .zrDec s =
    .next (s.conclude (authorReplyVerdict s.params s.regs.hSeq s.mem.body s.regs.hLen.toNat)
      (s.putAuthorReply (unpackAuthorReply s.mem.body))) :=
  congrArg Host.Outcome.next (parseAuthorReply_eq s)

theorem exec_of_verdict {i : Instr} {s after : State} {v : Option CmdError} {e : CmdError}
    (hexec : exec i s = .next (s.conclude v after)) (hv : v = some e) : exec i s = .next (s.enterError e) := by
  rw [hexec, hv, State.conclude_some]

/-- HDR_ENC and PKT_ASM both check the header first. -/
theorem exec_of_headerVerdict {i : Instr} {s : State} {e : CmdError} (h : headerVerdict s.params s.regs.header = some e)
    (hi : i = .hdrEnc ∨ i = .pktAsm) : exec i s = .next (s.enterError e) := by
  obtain rfl | rfl := hi
  · exact exec_of_verdict (exec_hdrEnc s) h
  · exact exec_of_verdict (exec_pktAsm s) (by rw [h, Option.some_or])

/-- A success leaves the registers of the reset state as they are: the status registers are 0 already. -/
theorem State.complete_of_reset {s : State} (h : s.regs = Regs.reset) : s.complete = s := by
  have hstatus : statusWord 0 (statusFlt Regs.reset.status) = 0 := by decide
  rw [State.complete, h, hstatus]
  exact congrArg (fun x => { s with regs := x }) h.symm

/-- The five bytes are the two lengths and the flags, all 0. -/
theorem packContinue_reset : packContinue ⟨0, [], []⟩ = [0, 0, 0, 0, 0] := by decide

theorem exec_acEnc_resetWith (p : Params) :
    exec .acEnc (State.resetWith p) = .next ((State.resetWith p).writeBuf .body [0, 0, 0, 0, 0]) := by
  have hflag : continueFieldVerdict (State.resetWith p).params (State.resetWith p).regs.acFlags = none :=
    continueFieldVerdict_zero p
  have hbody : packContinue (State.resetWith p).continueRecord = [0, 0, 0, 0, 0] := packContinue_reset
  rw [exec_acEnc, hflag, State.conclude_none, hbody, State.complete_of_reset (State.writeBuf_regs _ _ _)]

end Sys2Proof.Machine
end

section
open Sys2Proof Sys2Proof.Machine

/-- Settles O16: each command's chain of checks on the reset values ends at the check named, and AC_ENC's passes. -/
theorem commandsOnResetState : Obligations.CommandsOnResetState := by
  intro p s
  refine ⟨fun i hi => exec_of_headerVerdict (headerVerdict_reset p) hi,
    exec_of_verdict (exec_hdrDec s) (hdrDecVerdict_nil p),
    exec_of_verdict (exec_pktDis s) (packetVerdict_nil p 0),
    exec_of_verdict (exec_cipher s) secretVerdict_reset,
    exec_of_verdict (exec_asDec s) (startVerdict_nil p 0),
    exec_of_verdict (exec_arDec s) (replyVerdict_nil p 0),
    exec_of_verdict (exec_acDec s) (continueVerdict_nil p 0),
    (exec_of_verdict (exec_zrDec s) (authorReplyVerdict_nil p 0 0)).trans ?_, rfl, exec_acEnc_resetWith p⟩
  split_ifs <;> rfl

end

/-! PROOFS. The frame of every command (20_memory.md R51; 30_encoding.md R72; 60_exceptions.md R239). -/

section
namespace Sys2Proof.Machine

section
variable {i : Instr} {s after : State} {v : Option CmdError}

/-- A success keeps the writes, which are within the command's column; an error discards them. -/
theorem CommandForm.conclude_buffer (h : CommandForm i s v after) {b : Buf}
    (hb : writesBuf i b = false ∨ ¬(s.conclude v after).Ok) : (s.conclude v after).mem.read b = s.mem.read b := by
  cases v with
  | some e => rfl
  | none =>
    obtain hwrites | herror := hb
    · exact h.mem b hwrites
    · exact absurd after.complete_ok herror

theorem CommandForm.conclude_register (h : CommandForm i s v after) {r : Reg} (hstatus : r.isStatus = false)
    (hr : writesReg i r = false ∨ ¬(s.conclude v after).Ok) : (s.conclude v after).regs.read r = s.regs.read r := by
  cases v with
  | some e => exact State.enterError_read hstatus s e
  | none =>
    obtain hwrites | herror := hr
    · exact (State.complete_read hstatus after).trans (h.regs r hstatus hwrites)
    · exact absurd after.complete_ok herror

end

/-- A byte is a byte of the content. -/
theorem Memory.readByte_congr {m m' : Memory} {b : Buf} (h : m.read b = m'.read b) (off : Nat) :
    m.readByte b off = m'.readByte b off := by
  rw [Memory.readByte, Memory.readByte, h]

end Sys2Proof.Machine
end

section
open Sys2Proof Sys2Proof.Machine

/-- Settles O25: a command's form says what its writes leave alone, and an error discards the writes. -/
theorem commandFrame : Obligations.CommandFrame := by
  intro i s
  obtain ⟨v, after, hform⟩ := command_form i s
  obtain ⟨hpending, hparams, hanswer⟩ := State.conclude_kept (v := v) hform.pending hform.params hform.answer
  exact ⟨s.conclude v after, hform.eq, fun _ off hb => Memory.readByte_congr (hform.conclude_buffer hb) off,
    fun _ hb => congrArg List.length (hform.conclude_buffer hb), fun _ hstatus hr => hform.conclude_register hstatus hr,
    hparams, hpending, hanswer⟩

end

/-! PROOFS. The host's transactions one by one: register writes, loads and reads, and the write to CMD (20_memory.md R52 to R55, R61). -/

section
namespace Sys2Proof.Machine

/-! ### Register writes -/

/-- A write to an RO register changes nothing (20_memory.md R52). -/
theorem Regs.write_of_readOnly {r : Reg} (h : r.access = .ro) (x : Regs) (v : BitVec r.width) : x.write r v = x := by
  cases r
  case status | errA | errB | errF | hDerived => rfl
  all_goals cases h

theorem Regs.read_write_same {r : Reg} (h : r.access = .rw) (x : Regs) (v : BitVec r.width) :
    (x.write r v).read r = v := by
  cases r
  case cmd | status | errA | errB | errF | hDerived => cases h
  all_goals rfl

/-- `H_DERIVED` is read from `H_FLAGS`, so it alone follows a write to another register (10_state.md R24). -/
theorem Regs.read_write_other {r r' : Reg} (h : r' ≠ r) (hderived : ¬(r = .hFlags ∧ r' = .hDerived)) (x : Regs)
    (v : BitVec r.width) : (x.write r v).read r' = x.read r' := by
  cases r
  case cmd | status | errA | errB | errF | hDerived => rfl
  case hFlags =>
    cases r'
    case hFlags => exact absurd rfl h
    case hDerived => exact absurd ⟨rfl, rfl⟩ hderived
    all_goals rfl
  all_goals cases r' <;> first | rfl | exact absurd rfl h

theorem Regs.write_keeps_status (x : Regs) (r : Reg) (v : BitVec r.width) :
    (x.write r v).status = x.status ∧ (x.write r v).errA = x.errA ∧ (x.write r v).errB = x.errB ∧
      (x.write r v).errF = x.errF := by
  cases r <;> exact ⟨rfl, rfl, rfl, rfl⟩

/-! ### Loads and byte reads -/

theorem runBufLoad_of_le {b : Buf} {bytes : Bytes} (h : bytes.length ≤ b.cap) (s : State) :
    runBufLoad b bytes s = .next (s.writeBuf b bytes) := if_pos h

theorem runBufLoad_of_lt {b : Buf} {bytes : Bytes} (h : b.cap < bytes.length) (s : State) :
    runBufLoad b bytes s = .refused (.loadTooLong b bytes.length) := if_neg (Nat.not_le.2 h)

theorem Memory.readByte_of_lt {m : Memory} {b : Buf} {off : Nat} (h : off < (m.read b).length) :
    m.readByte b off = some ((m.read b).getD off 0) := by
  rw [Memory.readByte, List.getElem?_eq_getElem h, List.getD_eq_getElem _ _ h]

theorem Memory.readByte_of_le {m : Memory} {b : Buf} {off : Nat} (h : (m.read b).length ≤ off) :
    m.readByte b off = none := List.getElem?_eq_none h

theorem runBufReadByte_of_lt {b : Buf} {off : Nat} {s : State} (h : off < (s.mem.read b).length) :
    runBufReadByte b off s = .next { s with answer := some (.byte ((s.mem.read b).getD off 0)) } := by
  rw [runBufReadByte, Memory.readByte_of_lt h]

theorem runBufReadByte_of_le {b : Buf} {off : Nat} {s : State} (h : (s.mem.read b).length ≤ off) :
    runBufReadByte b off s = .fault (.noSuchByte b off) := by
  rw [runBufReadByte, Memory.readByte_of_le h]

/-! ### What a transaction leaves alone -/

theorem runTxn_pending {x : HostTxn} {s t : State} (h : runTxn x s = .next t) : t.pending = s.pending := by
  obtain ⟨op, -, hrun⟩ | ⟨-, rfl⟩ | ⟨r, v, -, -, rfl⟩ | ⟨b, bytes, -, -, rfl⟩ | ⟨a, rfl⟩ := runTxn_cases h
  · obtain ⟨u, hu, hpending, -, -⟩ := runCommand_kept op s
    cases hrun.symm.trans hu
    exact hpending
  all_goals rfl

/-- Neither a write to another register than CMD, nor a load, nor a read changes the status registers. -/
theorem runTxn_keeps_status {x : HostTxn} {s t : State} (h : runTxn x s = .next t)
    (hcmd : ∀ op, x ≠ .regWrite .cmd op) (hreset : x ≠ .hardReset) :
    t.regs.status = s.regs.status ∧ t.regs.errA = s.regs.errA ∧ t.regs.errB = s.regs.errB ∧
      t.regs.errF = s.regs.errF := by
  obtain ⟨op, hx, -⟩ | ⟨hx, -⟩ | ⟨r, v, -, -, rfl⟩ | ⟨b, bytes, -, -, rfl⟩ | ⟨a, rfl⟩ := runTxn_cases h
  · exact absurd hx (hcmd op)
  · exact absurd hx hreset
  · exact Regs.write_keeps_status s.regs r v
  all_goals exact ⟨rfl, rfl, rfl, rfl⟩

/-! ### The write to CMD -/

/-- The one word of `decodeTableWord` goes through `decode`. -/
theorem decode_tableWord {nbits w : Nat} {i : Instr} (h : decodeTableWord nbits w = some i) :
    decode (tableWord nbits w) = .ok i := by
  simp only [decodeTableWord, decodeBytes] at h
  cases hd : decode (tableWord nbits w) with
  | error e => rw [hd] at h; cases h
  | ok j => rw [hd] at h; cases h; rfl

theorem step_regWrite_cmd {s : State} {op : Byte} {rest : List HostTxn} (h : s.pending = .regWrite .cmd op :: rest) :
    step s = runCommand op { s with pending := rest, answer := none } := step_cons h

theorem step_decoded {s : State} {op : Byte} {rest : List HostTxn} {i : Instr}
    (h : s.pending = .regWrite .cmd op :: rest) (hd : decode op = .ok i) :
    step s = exec i { s with pending := rest, answer := none } :=
  (step_regWrite_cmd h).trans (runCommand_ok hd _)

end Sys2Proof.Machine
end

section
open Sys2Proof Sys2Proof.Machine

/-- Settles O6: a step with nothing pending waits, and one transaction leaves the rest of the list as it is. -/
theorem stepTakesOneTransaction : Obligations.StepTakesOneTransaction := by
  intro s t h
  obtain ⟨hnil, rfl⟩ | ⟨x, rest, hp, hrun⟩ := step_cases h
  · rw [hnil, List.tail_nil]
  · rw [runTxn_pending hrun, hp, List.tail_cons]

/-- Settles O7: the step is one `Regs.write`, which an RO register ignores and an RW register takes. -/
theorem regWriteChangesOneRegister : Obligations.RegWriteChangesOneRegister := by
  intro s r v rest hp hr
  exact ⟨_, (step_cons hp).trans (runRegWrite_other hr v _), rfl, rfl, rfl, fun hro => Regs.write_of_readOnly hro s.regs v,
    fun hrw => ⟨Regs.read_write_same hrw s.regs v, fun _ hother hderived => Regs.read_write_other hother hderived s.regs v⟩,
    rfl⟩

/-- Settles O9: the cap decides between a write of the whole buffer and the refusal. -/
theorem bufLoadReplacesOneBuffer : Obligations.BufLoadReplacesOneBuffer := by
  intro s b bytes rest hp
  refine ⟨fun hle => ?_, fun hlt => (step_cons hp).trans (runBufLoad_of_lt hlt _)⟩
  exact ⟨_, (step_cons hp).trans (runBufLoad_of_le hle _), Memory.read_write_same s.mem b bytes,
    fun _ hother => Memory.read_write_other s.mem bytes hother, rfl, rfl, rfl, rfl⟩

/-- Settles O11: of the transactions only a write to CMD and a hardware reset reach the status registers. -/
theorem onlyCommandsAndResetTouchStatus : Obligations.OnlyCommandsAndResetTouchStatus := by
  intro s t h hcmd hreset
  obtain ⟨-, rfl⟩ | ⟨x, rest, hp, hrun⟩ := step_cases h
  · exact ⟨rfl, rfl, rfl, rfl⟩
  · exact runTxn_keeps_status (s := { s with pending := rest, answer := none }) hrun
      (fun op hx => hcmd op rest (hx ▸ hp)) (fun hx => hreset rest (hx ▸ hp))

/-- Settles O4: the write to CMD is the first of the list, and `withFetchWord` puts it there. -/
theorem stepRunsDecodedCommand : Obligations.StepRunsDecodedCommand :=
  ⟨fun _ _ _ _ hp hd _ => step_decoded hp hd, fun _ _ _ hp => step_regWrite_cmd hp,
    fun s w _ hw => step_decoded (s := s.withFetchWord 8 w) rfl (decode_tableWord hw)⟩

/-- Settles O8: a read only sets the answer, and the canonical form bounds every length. -/
theorem readsChangeNothing : Obligations.ReadsChangeNothing :=
  ⟨fun _ _ _ hp => step_cons hp, fun _ _ _ hp => step_cons hp, fun m b hwf => (Memory.wf_iff m).1 hwf b, fun _ => rfl⟩

/-- Settles O10: a byte read finds a byte exactly below the length. -/
theorem bufReadsReturnContent : Obligations.BufReadsReturnContent := by
  refine ⟨fun _ _ _ hp => step_cons hp, fun s b off rest hp => ⟨fun hlt => ?_, fun hle => ?_⟩⟩
  · exact (step_cons hp).trans (runBufReadByte_of_lt hlt)
  · exact (step_cons hp).trans (runBufReadByte_of_le hle)

end

/-! PROOFS. The opcode map: decoder and encoder are inverse to each other, in a sequence of words too (30_encoding.md R70 to R72). -/

section
namespace Sys2Proof

/-- The laws of the encoding, row by row of the opcode map, as one. -/
theorem encoding_law : ∀ i : Instr, Laws.Encoding.Statement i
  | .nop => Laws.Encoding.nop
  | .clrf => Laws.Encoding.clrf
  | .srst => Laws.Encoding.srst
  | .hdrEnc => Laws.Encoding.hdrEnc
  | .hdrDec => Laws.Encoding.hdrDec
  | .cipher => Laws.Encoding.cipher
  | .asEnc => Laws.Encoding.asEnc
  | .asDec => Laws.Encoding.asDec
  | .arEnc => Laws.Encoding.arEnc
  | .arDec => Laws.Encoding.arDec
  | .acEnc => Laws.Encoding.acEnc
  | .acDec => Laws.Encoding.acDec
  | .zqEnc => Laws.Encoding.zqEnc
  | .zrDec => Laws.Encoding.zrDec
  | .pktAsm => Laws.Encoding.pktAsm
  | .pktDis => Laws.Encoding.pktDis
  | .bodyDec => Laws.Encoding.bodyDec

theorem decodeBytes_encodeBytes_append (i : Instr) (rest : Bytes) :
    decodeBytes (encodeBytes i ++ rest) = .ok (i, rest) := by
  obtain ⟨-, -, hdecode⟩ := encoding_law i
  exact hdecode rest

/-- The first word alone decides the command, and exactly it is taken (R70). -/
theorem decodeBytes_cons_eq_ok_iff {op : Byte} {bs rest : Bytes} {i : Instr} :
    decodeBytes (op :: bs) = .ok (i, rest) ↔ decode op = .ok i ∧ bs = rest := by
  rw [decodeBytes]
  cases decode op <;> simp

theorem decode_encode (i : Instr) : decode (encode i) = .ok i :=
  (decodeBytes_cons_eq_ok_iff.1 (decodeBytes_encodeBytes_append i [])).1

/-- An arm that answers a command has matched the number of that command's opcode. -/
theorem encode_of_decode {op : Byte} {i : Instr} (h : decode op = .ok i) : encode i = op := by
  unfold decode at h
  split at h <;> cases h
  all_goals exact BitVec.eq_of_toNat_eq (Eq.symm ‹op.toNat = _›)

theorem decode_eq_ok_iff {op : Byte} {i : Instr} : decode op = .ok i ↔ op = encode i :=
  ⟨fun h => (encode_of_decode h).symm, fun h => h ▸ decode_encode i⟩

theorem decodeBytes_eq_ok_iff {bs rest : Bytes} {i : Instr} :
    decodeBytes bs = .ok (i, rest) ↔ bs = encodeBytes i ++ rest := by
  cases bs with
  | nil => simp [decodeBytes, encodeBytes]
  | cons op bs =>
    rw [decodeBytes_cons_eq_ok_iff, decode_eq_ok_iff, encodeBytes, List.singleton_append, List.cons.injEq]

theorem decodeTableWord_eq_some_iff {nbits w : Nat} {i : Instr} :
    decodeTableWord nbits w = some i ↔ decode (tableWord nbits w) = .ok i :=
  ⟨Machine.decode_tableWord, fun h => by rw [decodeTableWord, decodeBytes_cons_eq_ok_iff.2 ⟨h, rfl⟩]⟩

/-- Of a table word only the low eight bits are the opcode (R70). -/
theorem tableWord_eq_iff {w : Nat} {op : Byte} : tableWord 8 w = op ↔ w % 256 = op.toNat := by
  simp [tableWord, ← BitVec.toNat_inj]

end Sys2Proof
end

section
open Sys2Proof

/-- Settles O1: each word is the encoding of the command its row names. -/
theorem opcodeMapDecodes : Obligations.OpcodeMapDecodes :=
  ⟨decode_encode .nop, decode_encode .clrf, decode_encode .srst, decode_encode .hdrEnc, decode_encode .hdrDec,
    decode_encode .cipher, decode_encode .asEnc, decode_encode .asDec, decode_encode .arEnc, decode_encode .arDec,
    decode_encode .acEnc, decode_encode .acDec, decode_encode .zqEnc, decode_encode .zrDec, decode_encode .pktAsm,
    decode_encode .pktDis, decode_encode .bodyDec⟩

/-- Settles O2: a word decodes to a command exactly when it is the command's encoding; sequences and table words follow. -/
theorem decodeEncodeAgree : Obligations.DecodeEncodeAgree :=
  ⟨fun _ _ => encode_of_decode, fun i _ => decode_encode i, fun _ _ _ => decodeBytes_eq_ok_iff,
    fun _ _ => decodeTableWord_eq_some_iff.trans (decode_eq_ok_iff.trans tableWord_eq_iff)⟩

end

/-! PROOFS. The opcodes outside the map: the listed ranges, the eighteen held back, and the error (30_encoding.md R73;
60_exceptions.md R235). -/

section
namespace Sys2Proof
open Machine

/-- The decoder answers a command, or it is on its last arm and the opcode is in one of the ranges of R73. -/
theorem decode_cases (op : Byte) : (∃ i, decode op = .ok i) ∨
    (illegalOpcode op.toNat = true ∧ decode op = .error (if isHeldBack op then .heldBack op else .illegal op)) := by
  unfold decode
  split
  case h_18 =>
    have hrange : illegalOpcode op.toNat = true := by
      simp only [illegalOpcode, Bool.or_eq_true, Bool.and_eq_true, decide_eq_true_eq, beq_iff_eq,
        imp_false] at *
      omega
    exact .inr ⟨hrange, rfl⟩
  all_goals exact .inl ⟨_, rfl⟩

/-- No opcode of the map is in the ranges of R73. -/
theorem illegalOpcode_encode (i : Instr) : illegalOpcode (encode i).toNat = false := by
  cases i <;> rfl

theorem illegalOpcode_iff (op : Byte) : illegalOpcode op.toNat = true ↔ ∀ i, decode op ≠ .ok i := by
  constructor
  · intro hillegal i hi
    rw [← encode_of_decode hi, illegalOpcode_encode] at hillegal
    cases hillegal
  · intro hnone
    obtain ⟨i, hi⟩ | ⟨hillegal, -⟩ := decode_cases op
    · exact absurd hi (hnone i)
    · exact hillegal

theorem isHeldBack_iff (op : Byte) : isHeldBack op = true ↔
    op.toNat = 0x41 ∨ op.toNat = 0x42 ∨ (0x60 ≤ op.toNat ∧ op.toNat ≤ 0x6F) := by
  simp only [isHeldBack, Bool.or_eq_true, beq_iff_eq, ← BitVec.toNat_inj, BitVec.extractLsb'_toNat,
    BitVec.ofNat_eq_ofNat, BitVec.reduceToNat, Nat.shiftRight_eq_div_pow]
  omega

theorem isHeldBack_encode (i : Instr) : isHeldBack (encode i) = false := by
  cases i <;> rfl

theorem decode_eq_heldBack_iff (op : Byte) : decode op = .error (.heldBack op) ↔ isHeldBack op = true := by
  obtain ⟨i, hi⟩ | ⟨-, herror⟩ := decode_cases op
  · rw [hi, ← encode_of_decode hi, isHeldBack_encode]
    simp
  · rw [herror]
    cases isHeldBack op <;> simp

/-- Of the 256 opcodes 17 are in the map. -/
theorem illegalOpcode_count : ((List.range 256).filter illegalOpcode).length = 239 := by decide +kernel

/-- `IllegalCommand(op, 0, 0)` has code 8, and nothing but the status registers takes part (60_exceptions.md R235, R239). -/
theorem runCommand_illegal {op : Byte} (h : illegalOpcode op.toNat = true) (s : State) :
    runCommand op s = .next { s with regs := { s.regs with
      status := statusWord 8 true, errA := BitVec.ofNat 32 op.toNat, errB := 0, errF := 0 } } :=
  runCommand_error ((illegalOpcode_iff op).1 h) s

end Sys2Proof
end

section
open Sys2Proof Sys2Proof.Machine

/-- Settles O3: the decoder's last arm is reached exactly in the ranges of R73, and there CMD raises the error. -/
theorem illegalOpcodeRaises : Obligations.IllegalOpcodeRaises :=
  ⟨illegalOpcode_iff, illegalOpcode_count, fun op => (decode_eq_heldBack_iff op).trans (isHeldBack_iff op),
    fun s _ h => runCommand_illegal h s⟩

end

/-! PROOFS. The header codec (40_header_codec.md R90 to R99). -/

section
namespace Sys2Proof.Machine

/-! ### Packing and unpacking -/

theorem hdrUnpack_headerBytes_self (h : Header) : hdrUnpack (headerBytes h) = h := by
  simpa using hdrUnpack_headerBytes h []

theorem headerBytes_hdrUnpack_self {b : Bytes} (h : b.length = 12) : headerBytes (hdrUnpack b) = b := by
  simpa [List.drop_of_length_le h.le] using headerBytes_hdrUnpack b h.ge

/-! ### The verdict of HDR_DEC -/

theorem hdrDecVerdict_of_length_ne {b : Bytes} (h : b.length ≠ 12) (p : Params) :
    hdrDecVerdict p b = some ⟨.invalidSize, 12, b.length, 0⟩ := if_pos h

theorem hdrDecVerdict_of_length_eq {b : Bytes} (h : b.length = 12) (p : Params) :
    hdrDecVerdict p b = headerVerdict p (hdrUnpack b) := if_neg (not_not_intro h)

theorem hdrDecVerdict_headerBytes (p : Params) (h : Header) : hdrDecVerdict p (headerBytes h) = headerVerdict p h := by
  rw [hdrDecVerdict_of_length_eq (headerBytes_length h), hdrUnpack_headerBytes_self]

/-- HDR_DEC accepts the bytes of the headers that pass the four tests and nothing else. -/
theorem hdrDecVerdict_eq_none_iff {p : Params} {b : Bytes} :
    hdrDecVerdict p b = none ↔ ∃ h, b = headerBytes h ∧ headerVerdict p h = none := by
  constructor
  · intro hnone
    by_cases hlength : b.length = 12
    · rw [hdrDecVerdict_of_length_eq hlength] at hnone
      exact ⟨hdrUnpack b, (headerBytes_hdrUnpack_self hlength).symm, hnone⟩
    · rw [hdrDecVerdict_of_length_ne hlength] at hnone
      cases hnone
  · rintro ⟨h, rfl, hvalid⟩
    rwa [hdrDecVerdict_headerBytes]

/-! ### The commands -/

theorem exec_hdrEnc_of_valid {s : State} (h : headerVerdict s.params s.regs.header = none) :
    exec .hdrEnc s = .next (s.writeBuf .hbuf (headerBytes s.regs.header)).complete := by
  rw [exec_hdrEnc, h, State.conclude_none]

theorem exec_hdrDec_headerBytes {s : State} {h : Header} (hbuf : s.mem.hbuf = headerBytes h) :
    exec .hdrDec s = .next (s.conclude (headerVerdict s.params h) { s with regs := s.regs.setHeader h }) := by
  rw [exec_hdrDec, hbuf, hdrDecVerdict_headerBytes, hdrUnpack_headerBytes_self]

theorem exec_hdrDec_of_valid {s : State} {h : Header} (hbuf : s.mem.hbuf = headerBytes h)
    (hvalid : headerVerdict s.params h = none) :
    exec .hdrDec s = .next ({ s with regs := s.regs.setHeader h } : State).complete := by
  rw [exec_hdrDec_headerBytes hbuf, hvalid, State.conclude_none]

/-- Where HDR_DEC succeeded, HBUF held a valid header and the registers now do. -/
theorem exec_hdrDec_ok {s t : State} (hexec : exec .hdrDec s = .next t) (hok : t.Ok) :
    ∃ h, s.mem.hbuf = headerBytes h ∧ headerVerdict s.params h = none ∧
      t = ({ s with regs := s.regs.setHeader h } : State).complete := by
  have hnone : hdrDecVerdict s.params s.mem.hbuf = none := by
    rw [exec_hdrDec] at hexec
    cases hexec
    exact (State.conclude_ok_iff _ _ _).1 hok
  obtain ⟨h, hbuf, hvalid⟩ := hdrDecVerdict_eq_none_iff.1 hnone
  rw [exec_hdrDec_of_valid hbuf hvalid] at hexec
  cases hexec
  exact ⟨h, hbuf, hvalid, rfl⟩

end Sys2Proof.Machine
end

section
open Sys2Proof Sys2Proof.Machine

/-- Settles O28: the layout is laid out byte by byte, and twelve bytes are those of the header they hold. -/
theorem headerPackUnpackInverse : Obligations.HeaderPackUnpackInverse := by
  refine ⟨fun h => ?_, fun b hb => ⟨hdrUnpack_eq b, ?_⟩⟩
  · rw [hdrPack_eq]
    exact ⟨rfl, headerBytes_length h, hdrUnpack_headerBytes_self h⟩
  · rw [hdrPack_eq, headerBytes_hdrUnpack_self hb]

/-- Settles O29: the verdict on the header registers decides between the write of HBUF and the error. -/
theorem hdrEncPacksHeader : Obligations.HdrEncPacksHeader :=
  fun _ => ⟨exec_hdrEnc_of_valid, fun _ h => exec_of_headerVerdict h (.inl rfl)⟩

/-- Settles O30: the size test comes first, and on 12 bytes the verdict is the one on the header they hold. -/
theorem hdrDecUnpacksHeader : Obligations.HdrDecUnpacksHeader := by
  refine ⟨fun s h => exec_hdrDec_of_valid,
    fun s hlength => exec_of_verdict (exec_hdrDec s) (hdrDecVerdict_of_length_ne hlength _), fun s e hlength herror => ?_⟩
  rw [← hdrUnpack_eq, ← hdrDecVerdict_of_length_eq hlength] at herror
  exact exec_of_verdict (exec_hdrDec s) herror

/-- Settles O31: each command leaves the header where the other reads it, so what one accepts the other does. -/
theorem headerRoundTrip : Obligations.HeaderRoundTrip := by
  constructor
  · intro s hvalid
    exact ⟨_, _, exec_hdrEnc_of_valid hvalid, State.complete_ok _, exec_hdrDec_of_valid rfl hvalid,
      State.complete_ok _, rfl⟩
  · intro s t hexec hok
    obtain ⟨h, hbuf, hvalid, rfl⟩ := exec_hdrDec_ok hexec hok
    exact ⟨_, exec_hdrEnc_of_valid hvalid, State.complete_ok _, hbuf.symm⟩

/-- Settles O32: both commands come to the same verdict on the same header. -/
theorem headerCodecsAcceptAlike : Obligations.HeaderCodecsAcceptAlike := by
  intro s s' hparams hbuf
  refine ⟨_, _, exec_hdrEnc s, exec_hdrDec_headerBytes hbuf, ?_⟩
  rw [State.conclude_ok_iff, State.conclude_ok_iff, hparams]

end

/-! PROOFS. The body cipher and its hash (41_body_cipher.md R110 to R127). -/

section
namespace Sys2Proof.Machine

/-! ### The keystream -/

theorem padOf_length (sid : Word) (secret : Bytes) (vb seq : Byte) (k : Nat) :
    (padOf sid secret vb seq k).length = 16 := by
  cases k with
  | zero => exact md5_length _
  | succ k => rw [padOf, Function.iterate_succ_apply', md5_length]

/-- The keystream, byte by byte (R111). -/
theorem keystream_eq_map (sid : Word) (secret : Bytes) (vb seq : Byte) (n : Nat) :
    keystream sid secret vb seq n =
      (List.range n).map fun i => (padOf sid secret vb seq (i / 16)).getD (i % 16) 0 := by
  have hall := heads_append_drop n (keystream sid secret vb seq n) (keystream_length ..).ge
  rw [List.drop_of_length_le (keystream_length ..).le, List.append_nil] at hall
  rw [← hall]
  exact List.map_congr_left fun i hi => keystream_getD _ _ _ _ _ _ (List.mem_range.1 hi)

theorem keystream_eq_take (sid : Word) (secret : Bytes) (vb seq : Byte) {n n' : Nat} (h : n ≤ n') :
    keystream sid secret vb seq n = (keystream sid secret vb seq n').take n := by
  rw [keystream_eq_map, keystream_eq_map, ← List.map_take, List.take_range, Nat.min_eq_left h]

/-! ### CIPHER -/

theorem cipherBody_of_unencrypted {h : Header} (hflag : h.flags &&& 0x01 ≠ 0) (secret body : Bytes) :
    cipherBody h secret body = body := if_pos (flagUnencrypted_iff.2 hflag)

/-- What the cipher adds to byte `i` is byte `i` of the keystream, whatever the body (R117). -/
theorem cipherBody_getD_xor {h : Header} (hflag : h.flags &&& 0x01 = 0) (secret : Bytes) {body : Bytes} {i : Nat}
    (hi : i < body.length) : (cipherBody h secret body).getD i 0 ^^^ body.getD i 0 =
      (padOf h.sid secret (versionOf h.major h.minor) h.seq (i / 16)).getD (i % 16) 0 := by
  obtain ⟨-, -, hxor⟩ := cipherBody_ciphered h secret body
  rw [hxor hflag i hi, BitVec.xor_comm, ← BitVec.xor_assoc, BitVec.xor_self, BitVec.zero_xor]

theorem secretVerdict_of_unencrypted {flags : Byte} (h : flags &&& 0x01 ≠ 0) (present : BitVec 1) :
    secretVerdict flags present = none := if_neg fun hand => h hand.1

theorem secretVerdict_present (flags : Byte) : secretVerdict flags 1 = none :=
  if_neg fun hand => absurd hand.2 (by decide)

theorem secretVerdict_null {flags : Byte} (h : flags &&& 0x01 = 0) :
    secretVerdict flags 0 = some ⟨.configError, 0, 0, 0⟩ := if_pos ⟨h, rfl⟩

theorem exec_cipher_of_verdict_none {s : State} (h : secretVerdict s.regs.hFlags s.regs.secretPresent = none) :
    exec .cipher s = .next (s.writeBuf .body (cipherBody s.regs.header s.mem.secret s.mem.body)).complete := by
  rw [exec_cipher, h, State.conclude_none]

theorem exec_cipher_of_unencrypted {s : State} (h : s.regs.hFlags &&& 0x01 ≠ 0) :
    exec .cipher s = .next s.complete := by
  rw [exec_cipher_of_verdict_none (secretVerdict_of_unencrypted h _), cipherBody_of_unencrypted h]
  rfl

theorem exec_cipher_of_secret {s : State} (h : s.regs.secretPresent = 1) :
    exec .cipher s = .next (s.writeBuf .body (cipherBody s.regs.header s.mem.secret s.mem.body)).complete :=
  exec_cipher_of_verdict_none (by rw [h, secretVerdict_present])

/-- Where CIPHER succeeded, its check passed and BODY holds the ciphered body. -/
theorem exec_cipher_ok {s t : State} (hexec : exec .cipher s = .next t) (hok : t.Ok) :
    secretVerdict s.regs.hFlags s.regs.secretPresent = none ∧
      t = (s.writeBuf .body (cipherBody s.regs.header s.mem.secret s.mem.body)).complete := by
  have hnone : secretVerdict s.regs.hFlags s.regs.secretPresent = none := by
    rw [exec_cipher] at hexec
    cases hexec
    exact (State.conclude_ok_iff _ _ _).1 hok
  rw [exec_cipher_of_verdict_none hnone] at hexec
  cases hexec
  exact ⟨hnone, rfl⟩

/-! ### The hash -/

theorem md5ZeroCount_lands (n : Nat) : (n + 1 + md5ZeroCount n) % 64 = 56 := by
  unfold md5ZeroCount; omega

theorem md5ZeroCount_least {n z : Nat} (h : z < md5ZeroCount n) : (n + 1 + z) % 64 ≠ 56 := by
  unfold md5ZeroCount at h; omega

/-- `le32`, byte by byte (R127). -/
theorem le32_eq_map (w : Word) : le32 w = (List.range 4).map fun j => BitVec.ofNat 8 (w.toNat / 2 ^ (8 * j)) := by
  simp only [le32, extractByte_eq_ofNat]
  rfl

theorem le32_getD (w : Word) {i : Nat} (hi : i < 4) : (le32 w).getD i 0 = BitVec.ofNat 8 (w.toNat / 2 ^ (8 * i)) := by
  rw [le32_eq_map]
  simp [List.getD_eq_getElem?_getD, hi]

/-- `le64`, byte by byte (R121). -/
theorem le64_eq_map (v : Nat) :
    le64 v = (List.range 8).map fun j => BitVec.ofNat 8 (v % 2 ^ 64 / 2 ^ (8 * j)) := by
  -- one equation of quotients for each of the eight bytes
  simp only [le64, le32_eq_map, List.range_succ, List.range_zero, List.nil_append, List.cons_append, List.map_cons,
    List.map_nil, List.cons.injEq, and_true, ← BitVec.toNat_inj, BitVec.toNat_ofNat]
  omega

theorem md5Output_getD (x : Md5State) {i : Nat} (hi : i < 4) :
    (md5Output x).getD i 0 = (le32 x.a).getD i 0 ∧ (md5Output x).getD (4 + i) 0 = (le32 x.b).getD i 0 ∧
      (md5Output x).getD (8 + i) 0 = (le32 x.c).getD i 0 ∧ (md5Output x).getD (12 + i) 0 = (le32 x.d).getD i 0 := by
  interval_cases i <;> exact ⟨rfl, rfl, rfl, rfl⟩

/-- The blocks are the padded message, cut every 64 bytes (R122). -/
theorem md5Blocks_md5Pad (m : Bytes) : (md5Blocks ((md5Pad m).length / 64) (md5Pad m)).flatten = md5Pad m ∧
    ∀ b ∈ md5Blocks ((md5Pad m).length / 64) (md5Pad m), b.length = 64 :=
  md5Blocks_flatten _ _ (Nat.mul_div_cancel' (Nat.dvd_of_mod_eq_zero (md5Pad_length m))).symm

end Sys2Proof.Machine
end

section
open Sys2Proof Sys2Proof.Machine

/-- Settles O33: the chain of pads, read at byte `i`, is in its pad number `i / 16`. -/
theorem keystreamIsPadChain : Obligations.KeystreamIsPadChain :=
  fun _ _ _ _ _ => ⟨keystream_length .., padOf_length _ _ _ _, fun _ => keystream_getD _ _ _ _ _ _⟩

/-- Settles O34: byte `i` of the keystream is the same for every length, and CIPHER adds it to any body. -/
theorem keystreamIndependence : Obligations.KeystreamIndependence := by
  refine ⟨fun _ _ _ _ _ _ => keystream_eq_take _ _ _ _, fun s body ptype flags len hsecret hflag hflag' hlen => ?_⟩
  refine ⟨_, _, exec_cipher_of_secret hsecret, exec_cipher_of_secret hsecret, fun i hi => ?_⟩
  have hadded := cipherBody_getD_xor (h := s.regs.header) hflag s.mem.secret (hlen ▸ hi)
  have hadded' := cipherBody_getD_xor (h := { s.regs.header with ptype, flags, len }) hflag' s.mem.secret hi
  exact hadded.trans hadded'.symm

/-- Settles O35: the flag and the secret decide between the three outcomes. -/
theorem cipherResult : Obligations.CipherResult := by
  refine fun s => ⟨exec_cipher_of_unencrypted, fun hflag hnull => ?_, fun _ hsecret => ?_⟩
  · exact exec_of_verdict (exec_cipher s) (hnull ▸ secretVerdict_null hflag)
  · exact ⟨_, cipherBody_ciphered _ _ _, exec_cipher_of_secret hsecret⟩

/-- Settles O36: the first command leaves what the second one's check and keystream read, and the XOR undoes itself. -/
theorem cipherSelfInverse : Obligations.CipherSelfInverse := by
  intro s t hexec hok
  obtain ⟨hnone, rfl⟩ := exec_cipher_ok hexec hok
  exact ⟨_, exec_cipher_of_verdict_none hnone, State.complete_ok _,
    cipherBody_twice s.regs.header s.mem.secret s.mem.body⟩

/-- Settles O37: with the count of zero bytes the model pads with. -/
theorem md5PaddingIsLeast : Obligations.Md5PaddingIsLeast := by
  refine fun m => ⟨md5ZeroCount m.length, ?_, md5ZeroCount_lands _, fun _ => md5ZeroCount_least, md5Pad_length m⟩
  rw [← le64_eq_map]
  rfl

/-- Settles O38: the blocks cut from the padded message are folded from the left, and the output is four `le32`. -/
theorem md5ProcessesBlocksInOrder : Obligations.Md5ProcessesBlocksInOrder := by
  refine ⟨md5_length, fun m => ?_, fun x i hi => ?_⟩
  · obtain ⟨hflatten, hlength⟩ := md5Blocks_md5Pad m
    exact ⟨_, hflatten, hlength, rfl⟩
  · simpa only [le32_getD _ hi] using md5Output_getD x hi

end

/-! PROOFS. The Authentication codec (42_authen_codec.md R142 to R153). -/

section
namespace Sys2Proof.Machine

/-! ### A command whose verdict is known -/

section
variable {i : Instr} {s t after : State} {v : Option CmdError}

theorem exec_of_verdict_none (hform : exec i s = .next (s.conclude v after)) (hv : v = none) :
    exec i s = .next after.complete := by
  rw [hform, hv, State.conclude_none]

/-- Where a command succeeded, every check passed and its writes were made. -/
theorem verdict_none_of_exec_ok (hform : exec i s = .next (s.conclude v after)) (hexec : exec i s = .next t) (hok : t.Ok) :
    v = none ∧ t = after.complete := by
  rw [hform] at hexec
  cases hexec
  have hv : v = none := (State.conclude_ok_iff _ _ _).1 hok
  exact ⟨hv, by rw [hv, State.conclude_none]⟩

end

/-! ### The parse discipline (R142) -/

theorem cursorVerdict_eq_none_iff {need n l : Nat} : cursorVerdict need n l = none ↔ need = n ∧ need = l := by
  unfold cursorVerdict
  split_ifs <;> simp <;> omega

/-- The checks of R142 in their order: the least size, the enumerated fields, the cursor. -/
def parseVerdict (least : Nat) (fields : Option CmdError) (need n l : Nat) : Option CmdError :=
  if n < least then some ⟨.invalidSize, least, n, 0⟩ else fields.or (cursorVerdict need n l)

/-- A parser that needs no fewer bytes than the least size accepts where the fields are in their sets and both declared lengths
equal the cursor. -/
theorem parseVerdict_eq_none_iff {least need n l : Nat} {fields : Option CmdError} (hleast : least ≤ need) :
    parseVerdict least fields need n l = none ↔ fields = none ∧ need = n ∧ need = l := by
  rw [← cursorVerdict_eq_none_iff, parseVerdict]
  split_ifs with hsize
  · have hshort : cursorVerdict need n l ≠ none := fun h => by
      obtain ⟨hn, -⟩ := cursorVerdict_eq_none_iff.1 h
      omega
    simp [hshort]
  · exact Option.or_eq_none_iff

/-! ### Layouts and their readers -/

/-- A record's layout with the reader that inverts it (R143 and R145, R146 and R148, R149 and R151). -/
structure BodyLayout (R : Type) where
  /-- The body that holds a record. -/
  write : R → Bytes
  /-- The record a body holds. -/
  read : Bytes → R
  /-- The first enumerated field outside its set. -/
  fields : Params → R → Option CmdError
  /-- The bytes a body's length fields call for. -/
  need : Bytes → Nat
  /-- `MIN`, the bytes of a body whose segments are empty. -/
  least : Nat
  /-- Every segment's length fits its length field. -/
  Fits : R → Prop
  least_le_need : ∀ b, least ≤ need b
  need_write : ∀ {r}, Fits r → need (write r) = (write r).length
  read_write : ∀ {r}, Fits r → read (write r) = r
  write_read : ∀ {b}, need b = b.length → write (read b) = b
  read_fits : ∀ b, Fits (read b)
  length_write_lt : ∀ {r}, Fits r → (write r).length < 2 ^ 32

section
variable {R : Type} (L : BodyLayout R) (p : Params) (b : Bytes) (l : Nat) (r : R)

/-- The body holds a valid record and its own length is declared. -/
def BodyLayout.Presents : Prop :=
  b = L.write r ∧ l = (L.write r).length ∧ L.Fits r ∧ L.fields p r = none

/-- The checks of the record's parser. -/
def BodyLayout.verdict : Option CmdError :=
  parseVerdict L.least (L.fields p (L.read b)) (L.need b) b.length l

/-- The parser accepts exactly the layouts of valid records, and the record presented is the one it reads. -/
theorem BodyLayout.presents_iff : L.Presents p b l r ↔ L.verdict p b l = none ∧ L.read b = r := by
  rw [BodyLayout.verdict, parseVerdict_eq_none_iff (L.least_le_need b)]
  constructor
  · rintro ⟨rfl, rfl, hfits, hfields⟩
    have hneed := L.need_write hfits
    have hread := L.read_write hfits
    exact ⟨⟨by rwa [hread], hneed, hneed⟩, hread⟩
  · rintro ⟨⟨hfields, hneed, hlen⟩, rfl⟩
    have hbody := L.write_read hneed
    exact ⟨hbody.symm, by rw [hbody, ← hlen, hneed], L.read_fits b, hfields⟩

variable {L p r}

/-- A valid record written, with the body's length put in `H_LEN`, is presented (R152). -/
theorem BodyLayout.presents_written (hfits : L.Fits r) (hfields : L.fields p r = none) :
    L.Presents p (L.write r) (BitVec.ofNat 32 (L.write r).length).toNat r :=
  ⟨rfl, by rw [BitVec.toNat_ofNat, Nat.mod_eq_of_lt (L.length_write_lt hfits)], hfits, hfields⟩

end

/-! ### Length fields -/

/-- Both bytes of a two-byte length field are the length's, even of a buffer beyond the cap. -/
theorem be16_len16 (b : Bytes) : be16 (len16 b) = wire16 b.length := by
  rw [be16_eq_wire16, len16, BitVec.toNat_ofNat, wire16, wire16, List.cons.injEq, List.cons.injEq]
  refine ⟨BitVec.eq_of_toNat_eq ?_, BitVec.eq_of_toNat_eq ?_, rfl⟩ <;> simp only [BitVec.toNat_ofNat] <;> omega

theorem packReply_eq_replyBody (r : ReplyRecord) : packReply r = replyBody r := by
  simp only [packReply, replyBody, be16_len16]

theorem packContinue_eq_continueBody (r : ContinueRecord) : packContinue r = continueBody r := by
  simp only [packContinue, continueBody, be16_len16]

/-! ### The Start -/

theorem num8_startBody {r : StartRecord} (hu : r.user.length ≤ 255) (hp : r.port.length ≤ 255)
    (hr : r.remAddr.length ≤ 255) (hc : r.content.length ≤ 255) :
    num8 (startBody r) 4 = r.user.length ∧ num8 (startBody r) 5 = r.port.length ∧
      num8 (startBody r) 6 = r.remAddr.length ∧ num8 (startBody r) 7 = r.content.length :=
  ⟨lenByte_toNat hu, lenByte_toNat hp, lenByte_toNat hr, lenByte_toNat hc⟩

/-- The Start layout (R143). -/
def startLayout : BodyLayout StartRecord where
  write := startBody
  read := unpackStart
  fields p r := startFieldVerdict p r.action r.privLvl r.authenType r.authenSvc
  need := startNeed
  least := 8
  Fits r := r.user.length ≤ 255 ∧ r.port.length ≤ 255 ∧ r.remAddr.length ≤ 255 ∧ r.content.length ≤ 255
  least_le_need b := by rw [startNeed_eq]; omega
  need_write := fun ⟨hu, hp, hr, hc⟩ => startNeed_startBody hu hp hr hc
  read_write := fun ⟨hu, hp, hr, hc⟩ => unpackStart_startBody hu hp hr hc
  write_read := startBody_unpackStart
  read_fits := unpackStart_bounds
  length_write_lt := fun ⟨hu, hp, hr, hc⟩ => by rw [startBody_length]; omega

theorem State.startRecord_fits {s : State} (hwf : s.mem.wf = true) : startLayout.Fits s.startRecord :=
  have h := (Memory.wf_iff s.mem).1 hwf
  ⟨h .user, h .port, h .remAddr, h .content⟩

theorem startVerdict_eq_layout (p : Params) (b : Bytes) (l : Nat) : startVerdict p b l = startLayout.verdict p b l := by
  change _ = parseVerdict 8 (startFieldVerdict p (b.getD 0 0) (b.getD 1 0) (b.getD 2 0) (b.getD 3 0)) (startNeed b) b.length l
  rw [startVerdict, parseVerdict, startNeed_eq]
  cases startFieldVerdict p (b.getD 0 0) (b.getD 1 0) (b.getD 2 0) (b.getD 3 0) <;> rfl

theorem startPresented_iff_layout {s : State} {r : StartRecord} :
    StartPresented s r ↔ startLayout.Presents s.params s.mem.body s.regs.hLen.toNat r := by
  simp only [StartPresented, BodyLayout.Presents, startLayout, and_assoc]

/-- The presented record is the one the body holds, where every check passes. -/
theorem startPresented_iff {s : State} {r : StartRecord} : StartPresented s r ↔
    startVerdict s.params s.mem.body s.regs.hLen.toNat = none ∧ unpackStart s.mem.body = r := by
  rw [startPresented_iff_layout, startVerdict_eq_layout]
  exact startLayout.presents_iff _ _ _ _

theorem exec_asEnc_of_valid {s : State}
    (h : startFieldVerdict s.params s.regs.asAction s.regs.privLvl s.regs.authenType s.regs.authenSvc = none) :
    exec .asEnc s = .next (s.writeBuf .body (startBody s.startRecord)).complete :=
  exec_of_verdict_none (exec_asEnc s) h

theorem exec_asDec_of_presented {s : State} {r : StartRecord} (h : StartPresented s r) :
    exec .asDec s = .next (startStored s r) := by
  obtain ⟨hv, rfl⟩ := startPresented_iff.1 h
  exact exec_of_verdict_none (exec_asDec s) hv

/-- Where AS_DEC succeeded, a Start was presented and is now stored. -/
theorem exec_asDec_ok {s t : State} (hexec : exec .asDec s = .next t) (hok : t.Ok) :
    ∃ r, StartPresented s r ∧ t = startStored s r := by
  obtain ⟨hv, rfl⟩ := verdict_none_of_exec_ok (exec_asDec s) hexec hok
  exact ⟨_, startPresented_iff.2 ⟨hv, rfl⟩, rfl⟩

/-! ### The Reply -/

/-- The Reply layout (R146). -/
def replyLayout : BodyLayout ReplyRecord where
  write := replyBody
  read := unpackReply
  fields p r := replyFieldVerdict p r.status r.flags
  need := replyNeed
  least := 6
  Fits r := r.msg.length ≤ 65535 ∧ r.data.length ≤ 65535
  least_le_need b := by rw [replyNeed_eq]; omega
  need_write := fun ⟨hm, hd⟩ => replyNeed_replyBody hm hd
  read_write := fun ⟨hm, hd⟩ => unpackReply_replyBody hm hd
  write_read := replyBody_unpackReply
  read_fits := unpackReply_bounds
  length_write_lt := fun ⟨hm, hd⟩ => by rw [replyBody_length]; omega

theorem State.replyRecord_fits {s : State} (hwf : s.mem.wf = true) : replyLayout.Fits s.replyRecord :=
  have h := (Memory.wf_iff s.mem).1 hwf
  ⟨h .msg, h .data⟩

theorem replyVerdict_eq_layout (p : Params) (b : Bytes) (l : Nat) : replyVerdict p b l = replyLayout.verdict p b l := by
  change _ = parseVerdict 6 (replyFieldVerdict p (b.getD 0 0) (b.getD 1 0)) (replyNeed b) b.length l
  rw [replyVerdict, parseVerdict, replyNeed_eq]
  cases replyFieldVerdict p (b.getD 0 0) (b.getD 1 0) <;> rfl

theorem replyPresented_iff_layout {s : State} {r : ReplyRecord} :
    ReplyPresented s r ↔ replyLayout.Presents s.params s.mem.body s.regs.hLen.toNat r := by
  simp only [ReplyPresented, BodyLayout.Presents, replyLayout, and_assoc]

/-- The presented record is the one the body holds, where every check passes. -/
theorem replyPresented_iff {s : State} {r : ReplyRecord} : ReplyPresented s r ↔
    replyVerdict s.params s.mem.body s.regs.hLen.toNat = none ∧ unpackReply s.mem.body = r := by
  rw [replyPresented_iff_layout, replyVerdict_eq_layout]
  exact replyLayout.presents_iff _ _ _ _

theorem exec_arEnc_of_valid {s : State} (h : replyFieldVerdict s.params s.regs.arStatus s.regs.arFlags = none) :
    exec .arEnc s = .next (s.writeBuf .body (replyBody s.replyRecord)).complete := by
  rw [← packReply_eq_replyBody]
  exact exec_of_verdict_none (exec_arEnc s) h

theorem exec_arDec_of_presented {s : State} {r : ReplyRecord} (h : ReplyPresented s r) :
    exec .arDec s = .next (replyStored s r) := by
  obtain ⟨hv, rfl⟩ := replyPresented_iff.1 h
  exact exec_of_verdict_none (exec_arDec s) hv

/-- Where AR_DEC succeeded, a Reply was presented and is now stored. -/
theorem exec_arDec_ok {s t : State} (hexec : exec .arDec s = .next t) (hok : t.Ok) :
    ∃ r, ReplyPresented s r ∧ t = replyStored s r := by
  obtain ⟨hv, rfl⟩ := verdict_none_of_exec_ok (exec_arDec s) hexec hok
  exact ⟨_, replyPresented_iff.2 ⟨hv, rfl⟩, rfl⟩

theorem replyFieldVerdict_of_flags {p : Params} {status flags : Byte} (hstatus : validAuthenStatus p status = true)
    (hflags : flags ∉ p.replyFlag) : replyFieldVerdict p status flags = some ⟨.invalidField, flags.toNat, 0, 10⟩ := by
  rw [← validReplyFlag_iff, Bool.not_eq_true] at hflags
  rw [replyFieldVerdict, if_neg (by simp [hstatus]), if_pos hflags]

/-- Past the size check a field outside its set decides the verdict. -/
theorem replyVerdict_of_fields {p : Params} {b : Bytes} {e : CmdError} (hsize : 6 ≤ b.length)
    (hfields : replyFieldVerdict p (b.getD 0 0) (b.getD 1 0) = some e) (l : Nat) : replyVerdict p b l = some e := by
  rw [replyVerdict, if_neg (by omega), hfields]

/-! ### The Continue -/

/-- The Continue layout (R149). -/
def continueLayout : BodyLayout ContinueRecord where
  write := continueBody
  read := unpackContinue
  fields p r := continueFieldVerdict p r.flags
  need := continueNeed
  least := 5
  Fits r := r.msg.length ≤ 65535 ∧ r.data.length ≤ 65535
  least_le_need b := by rw [continueNeed_eq]; omega
  need_write := fun ⟨hm, hd⟩ => continueNeed_continueBody hm hd
  read_write := fun ⟨hm, hd⟩ => unpackContinue_continueBody hm hd
  write_read := continueBody_unpackContinue
  read_fits := unpackContinue_bounds
  length_write_lt := fun ⟨hm, hd⟩ => by rw [continueBody_length]; omega

theorem State.continueRecord_fits {s : State} (hwf : s.mem.wf = true) : continueLayout.Fits s.continueRecord :=
  have h := (Memory.wf_iff s.mem).1 hwf
  ⟨h .msg, h .data⟩

theorem continueVerdict_eq_layout (p : Params) (b : Bytes) (l : Nat) : continueVerdict p b l = continueLayout.verdict p b l := by
  change _ = parseVerdict 5 (continueFieldVerdict p (b.getD 4 0)) (continueNeed b) b.length l
  rw [continueVerdict, parseVerdict, continueNeed_eq]
  cases continueFieldVerdict p (b.getD 4 0) <;> rfl

theorem continuePresented_iff_layout {s : State} {r : ContinueRecord} :
    ContinuePresented s r ↔ continueLayout.Presents s.params s.mem.body s.regs.hLen.toNat r := by
  simp only [ContinuePresented, BodyLayout.Presents, continueLayout, and_assoc]

/-- The presented record is the one the body holds, where every check passes. -/
theorem continuePresented_iff {s : State} {r : ContinueRecord} : ContinuePresented s r ↔
    continueVerdict s.params s.mem.body s.regs.hLen.toNat = none ∧ unpackContinue s.mem.body = r := by
  rw [continuePresented_iff_layout, continueVerdict_eq_layout]
  exact continueLayout.presents_iff _ _ _ _

theorem exec_acEnc_of_valid {s : State} (h : continueFieldVerdict s.params s.regs.acFlags = none) :
    exec .acEnc s = .next (s.writeBuf .body (continueBody s.continueRecord)).complete := by
  rw [← packContinue_eq_continueBody]
  exact exec_of_verdict_none (exec_acEnc s) h

theorem exec_acDec_of_presented {s : State} {r : ContinueRecord} (h : ContinuePresented s r) :
    exec .acDec s = .next (continueStored s r) := by
  obtain ⟨hv, rfl⟩ := continuePresented_iff.1 h
  exact exec_of_verdict_none (exec_acDec s) hv

/-- Where AC_DEC succeeded, a Continue was presented and is now stored. -/
theorem exec_acDec_ok {s t : State} (hexec : exec .acDec s = .next t) (hok : t.Ok) :
    ∃ r, ContinuePresented s r ∧ t = continueStored s r := by
  obtain ⟨hv, rfl⟩ := verdict_none_of_exec_ok (exec_acDec s) hexec hok
  exact ⟨_, continuePresented_iff.2 ⟨hv, rfl⟩, rfl⟩

/-! ### What the serialisers write (R153) -/

theorem exec_asEnc_sizes {s t : State} (hwf : s.mem.wf = true) (hexec : exec .asEnc s = .next t) (hok : t.Ok) :
    t.mem.body.length = 8 + s.mem.user.length + s.mem.port.length + s.mem.remAddr.length + s.mem.content.length ∧
      num8 t.mem.body 4 = s.mem.user.length ∧ num8 t.mem.body 5 = s.mem.port.length ∧
      num8 t.mem.body 6 = s.mem.remAddr.length ∧ num8 t.mem.body 7 = s.mem.content.length := by
  obtain ⟨-, rfl⟩ := verdict_none_of_exec_ok (exec_asEnc s) hexec hok
  obtain ⟨hu, hp, hr, hc⟩ := State.startRecord_fits hwf
  exact ⟨startBody_length _, num8_startBody hu hp hr hc⟩

theorem exec_arEnc_sizes {s t : State} (hwf : s.mem.wf = true) (hexec : exec .arEnc s = .next t) (hok : t.Ok) :
    t.mem.body.length = 6 + s.mem.msg.length + s.mem.data.length ∧
      num16 t.mem.body 2 = s.mem.msg.length ∧ num16 t.mem.body 4 = s.mem.data.length := by
  obtain ⟨-, rfl⟩ := verdict_none_of_exec_ok (exec_arEnc s) hexec hok
  obtain ⟨hm, hd⟩ := State.replyRecord_fits hwf
  rw [packReply_eq_replyBody]
  exact ⟨replyBody_length _, num16_replyBody_msg hm, num16_replyBody_data hd⟩

theorem exec_acEnc_sizes {s t : State} (hwf : s.mem.wf = true) (hexec : exec .acEnc s = .next t) (hok : t.Ok) :
    t.mem.body.length = 5 + s.mem.msg.length + s.mem.data.length ∧
      num16 t.mem.body 0 = s.mem.msg.length ∧ num16 t.mem.body 2 = s.mem.data.length := by
  obtain ⟨-, rfl⟩ := verdict_none_of_exec_ok (exec_acEnc s) hexec hok
  obtain ⟨hm, hd⟩ := State.continueRecord_fits hwf
  rw [packContinue_eq_continueBody]
  exact ⟨continueBody_length _, num16_continueBody_msg hm, num16_continueBody_data hd⟩

/-! ### What a serialiser wrote is presented to the parser -/

/-- The host has set `H_LEN` to `BODY_LEN`, as R152 has it between the two commands. -/
def State.setLen (s : State) : State := { s with regs := { s.regs with hLen := BitVec.ofNat 32 s.mem.body.length } }

theorem startPresented_of_written {s : State} (hwf : s.mem.wf = true)
    (h : startFieldVerdict s.params s.regs.asAction s.regs.privLvl s.regs.authenType s.regs.authenSvc = none) :
    StartPresented (s.writeBuf .body (startBody s.startRecord)).complete.setLen s.startRecord :=
  startPresented_iff_layout.2 (startLayout.presents_written (State.startRecord_fits hwf) h)

theorem replyPresented_of_written {s : State} (hwf : s.mem.wf = true)
    (h : replyFieldVerdict s.params s.regs.arStatus s.regs.arFlags = none) :
    ReplyPresented (s.writeBuf .body (replyBody s.replyRecord)).complete.setLen s.replyRecord :=
  replyPresented_iff_layout.2 (replyLayout.presents_written (State.replyRecord_fits hwf) h)

theorem continuePresented_of_written {s : State} (hwf : s.mem.wf = true)
    (h : continueFieldVerdict s.params s.regs.acFlags = none) :
    ContinuePresented (s.writeBuf .body (continueBody s.continueRecord)).complete.setLen s.continueRecord :=
  continuePresented_iff_layout.2 (continueLayout.presents_written (State.continueRecord_fits hwf) h)

end Sys2Proof.Machine
end

section
open Sys2Proof Sys2Proof.Machine

/-- Settles O39: the verdict on the four scalars decides between the write of BODY and the error. -/
theorem asEncWritesStart : Obligations.AsEncWritesStart :=
  fun s => ⟨exec_asEnc_of_valid, fun _ => exec_of_verdict (exec_asEnc s)⟩

/-- Settles O40: a Start is presented exactly where the parser's verdict is clean, and it is the one the body holds. -/
theorem asDecStoresStart : Obligations.AsDecStoresStart :=
  ⟨fun _ _ => exec_asDec_of_presented, fun s _ => exec_of_verdict (exec_asDec s),
    fun _ hv => ⟨_, startPresented_iff.2 ⟨hv, rfl⟩⟩⟩

/-- Settles O41: the verdict on status and flags decides between the write of BODY and the error. -/
theorem arEncWritesReply : Obligations.ArEncWritesReply :=
  fun s => ⟨exec_arEnc_of_valid, fun _ => exec_of_verdict (exec_arEnc s)⟩

/-- Settles O42: a Reply is presented exactly where the parser's verdict is clean; the flags are tested next after the status. -/
theorem arDecStoresReply : Obligations.ArDecStoresReply := by
  refine ⟨fun _ _ => exec_arDec_of_presented, fun s _ => exec_of_verdict (exec_arDec s),
    fun _ hv => ⟨_, replyPresented_iff.2 ⟨hv, rfl⟩⟩, fun s hset hsize hstatus h0 h1 => ?_⟩
  have hflags : s.mem.body.getD 1 0 ∉ s.params.replyFlag := fun hmem => ((hset _).1 hmem).elim h0 h1
  exact exec_of_verdict (exec_arDec s) (replyVerdict_of_fields hsize (replyFieldVerdict_of_flags hstatus hflags) _)

/-- Settles O43: the verdict on the flags decides between the write of BODY and the error. -/
theorem acEncWritesContinue : Obligations.AcEncWritesContinue :=
  fun s => ⟨exec_acEnc_of_valid, fun _ => exec_of_verdict (exec_acEnc s)⟩

/-- Settles O44: a Continue is presented exactly where the parser's verdict is clean, and it is the one the body holds. -/
theorem acDecStoresContinue : Obligations.AcDecStoresContinue :=
  ⟨fun _ _ => exec_acDec_of_presented, fun s _ => exec_of_verdict (exec_acDec s),
    fun _ hv => ⟨_, continuePresented_iff.2 ⟨hv, rfl⟩⟩⟩

/-- Settles O45: within the caps a length field holds its segment's length without loss. -/
theorem serialisedSizes : Obligations.SerialisedSizes :=
  ⟨fun _ _ => exec_asEnc_sizes, fun _ _ => exec_arEnc_sizes, fun _ _ => exec_acEnc_sizes⟩

/-- Settles O46: each command leaves what the other one accepts, the same record. -/
theorem startRoundTrip : Obligations.StartRoundTrip := by
  constructor
  · intro s hwf hfields
    exact ⟨_, _, exec_asEnc_of_valid hfields, State.complete_ok _,
      exec_asDec_of_presented (startPresented_of_written hwf hfields), State.complete_ok _, rfl⟩
  · intro s t hexec hok
    obtain ⟨r, ⟨hbody, -, -, -, -, -, hfields⟩, rfl⟩ := exec_asDec_ok hexec hok
    exact ⟨_, exec_asEnc_of_valid hfields, State.complete_ok _, hbody.symm⟩

/-- Settles O47: each command leaves what the other one accepts, the same record. -/
theorem replyRoundTrip : Obligations.ReplyRoundTrip := by
  constructor
  · intro s hwf hfields
    exact ⟨_, _, exec_arEnc_of_valid hfields, State.complete_ok _,
      exec_arDec_of_presented (replyPresented_of_written hwf hfields), State.complete_ok _, rfl⟩
  · intro s t hexec hok
    obtain ⟨r, ⟨hbody, -, -, -, hfields⟩, rfl⟩ := exec_arDec_ok hexec hok
    exact ⟨_, exec_arEnc_of_valid hfields, State.complete_ok _, hbody.symm⟩

/-- Settles O48: each command leaves what the other one accepts, the same record. -/
theorem continueRoundTrip : Obligations.ContinueRoundTrip := by
  constructor
  · intro s hwf hfields
    exact ⟨_, _, exec_acEnc_of_valid hfields, State.complete_ok _,
      exec_acDec_of_presented (continuePresented_of_written hwf hfields), State.complete_ok _, rfl⟩
  · intro s t hexec hok
    obtain ⟨r, ⟨hbody, -, -, -, hfields⟩, rfl⟩ := exec_acDec_ok hexec hok
    exact ⟨_, exec_acEnc_of_valid hfields, State.complete_ok _, hbody.symm⟩

end

/-! PROOFS. The Authorization codec (43_author_codec.md R181 to R185). -/

section
namespace Sys2Proof.Machine

/-! ### The Request (R181 to R183) -/

theorem exec_zqEnc_of_valid {s : State}
    (h : requestFieldVerdict s.params s.regs.zqMethod s.regs.privLvl s.regs.authenType s.regs.authenSvc = none) :
    exec .zqEnc s = .next (s.writeBuf .body (requestBody s.regs s.mem)).complete :=
  exec_of_verdict_none (exec_zqEnc s) h

@[simp] theorem argsBelow_length (m : Memory) (n : Nat) : (argsBelow m n).length = n := by
  rw [argsBelow, List.length_map, List.length_range]

/-- An index past the argument buffers reads as the empty argument. -/
theorem Memory.arg_length_le {m : Memory} (hwf : m.wf = true) (i : Nat) : (m.args.toList.getD i []).length ≤ 255 := by
  by_cases hi : i < 255
  · simpa [Memory.read, Buf.cap, Config.shortCap, hi] using (Memory.wf_iff m).1 hwf (.arg ⟨i, hi⟩)
  · simp [hi]

theorem num8_requestBody_argCnt (x : Regs) (m : Memory) : num8 (requestBody x m) 7 = x.argCnt.toNat := rfl

theorem num8_requestBody_table {x : Regs} {m : Memory} {i : Nat} (hwf : m.wf = true) (hi : i < x.argCnt.toNat) :
    num8 (requestBody x m) (8 + i) = (m.args.toList.getD i []).length := by
  have htable : (requestBody x m).getD (8 + i) 0 = ((argsBelow m x.argCnt.toNat).map lenByte).getD i 0 := by
    simp only [requestBody, List.append_assoc]
    rw [List.getD_append_right _ _ _ _ (Nat.le_add_right 8 i), List.getD_append _ _ _ _ (by simpa using hi)]
    exact congrArg (List.getD _ · 0) (Nat.add_sub_cancel_left 8 i)
  rw [num8, htable, ← lenByte_toNat (Memory.arg_length_le hwf i)]
  simp [argsBelow, hi]

theorem requestBody_length (x : Regs) (m : Memory) : (requestBody x m).length =
    8 + x.argCnt.toNat + m.user.length + m.port.length + m.remAddr.length +
      ((List.range x.argCnt.toNat).map fun i => (m.args.toList.getD i []).length).sum := by
  have hvalues : (argsBelow m x.argCnt.toNat).flatten.length =
      ((List.range x.argCnt.toNat).map fun i => (m.args.toList.getD i []).length).sum := by
    rw [List.length_flatten, argsBelow, List.map_map, Function.comp_def]
  simp only [requestBody, List.length_append, List.length_map, argsBelow_length, hvalues, List.length_cons, List.length_nil]

/-- The length table and the values give the same length (R183). -/
theorem requestBody_length_of_table {x : Regs} {m : Memory} (hwf : m.wf = true) : (requestBody x m).length =
    8 + x.argCnt.toNat + m.user.length + m.port.length + m.remAddr.length +
      ((List.range x.argCnt.toNat).map fun i => num8 (requestBody x m) (8 + i)).sum := by
  rw [requestBody_length, List.map_congr_left fun i hi => num8_requestBody_table hwf (List.mem_range.1 hi)]

/-- The length PKT_ASM puts in `H_LEN` is the body's, for a body within the cap (44_packet_ops.md R201). -/
theorem exec_pktAsm_hLen {s t : State} (hcap : s.mem.body.length ≤ 2 ^ 32 - 1) (hexec : exec .pktAsm s = .next t) (hok : t.Ok) :
    t.regs.hLen.toNat = s.mem.body.length := by
  obtain ⟨-, rfl⟩ := verdict_none_of_exec_ok (exec_pktAsm s) hexec hok
  change (BitVec.ofNat 32 s.mem.body.length).toNat = _
  rw [BitVec.toNat_ofNat, Nat.mod_eq_of_lt (by omega)]

/-! ### The Authorization Reply (R184, R185) -/

theorem memRead_append_drop (b : Bytes) (off n : Nat) : memRead b off n ++ b.drop (off + n) = b.drop off := by
  rw [memRead, ← List.drop_drop, List.take_append_drop]

theorem memRead_two {b : Bytes} {off : Nat} (h : off + 2 ≤ b.length) : memRead b off 2 = wire16 (num16 b off) := by
  have h0 : off < b.length := by omega
  have h1 : off + 1 < b.length := by omega
  rw [num16, num8, num8, wire16_of_bytes, memRead, List.drop_eq_getElem_cons h0, List.drop_eq_getElem_cons h1,
    List.getD_eq_getElem b 0 h0, List.getD_eq_getElem b 0 h1]
  rfl

/-- The bytes an Authorization Reply calls for are its fixed ones and the table, at least. -/
theorem le_authorReplyNeed (b : Bytes) : 6 + num8 b 1 ≤ authorReplyNeed b := by
  change 6 + (byteAt b 1).toNat ≤ _
  simp only [authorReplyNeed]
  omega

/-- The parser accepts where the parameter is set, the status is in its set and both declared lengths equal the cursor. -/
theorem authorReplyVerdict_eq_none_iff {p : Params} {seq : Byte} {b : Bytes} {l : Nat} :
    authorReplyVerdict p seq b l = none ↔ p.hasAuthorReply = true ∧ validAuthorStatus p (b.getD 0 0) = true ∧
      authorReplyNeed b = b.length ∧ authorReplyNeed b = l := by
  have hle := le_authorReplyNeed b
  by_cases htable : b.length < 6 + num8 b 1
  · have hshort : authorReplyNeed b ≠ b.length := by omega
    simp only [authorReplyVerdict, if_pos htable]
    split_ifs <;> simp [hshort]
  · have hsize : ¬b.length < 6 := by omega
    rw [← cursorVerdict_eq_none_iff, authorReplyNeed_eq b (by omega)]
    simp only [authorReplyVerdict, if_neg htable, if_neg hsize]
    cases p.hasAuthorReply <;> cases validAuthorStatus p (b.getD 0 0) <;> simp

theorem authorReplyNeed_authorReplyBody {status : Byte} {args : List Bytes} {msg data : Bytes} (hcount : args.length ≤ 255)
    (hargs : ∀ a ∈ args, a.length ≤ 255) (hm : msg.length ≤ 65535) (hd : data.length ≤ 65535) :
    authorReplyNeed (authorReplyBody status args msg data) = (authorReplyBody status args msg data).length := by
  obtain ⟨hn, hmsg, hdata, -, hsum⟩ := authorReplyBody_spec (status := status) hcount hargs hm hd
  have hlength := authorReplyBody_length status args msg data
  rw [authorReplyNeed_eq _ (by omega), hn, hmsg, hdata, hsum, hlength]

section
variable {b : Bytes} (h : authorReplyNeed b = b.length)
include h

/-- Where the lengths add up, the arguments read are as long as the table says, and fill the rest of the body. -/
theorem unpackAuthorReply_args : (unpackAuthorReply b).args.map List.length = (memRead b 2 (num8 b 1)).map (·.toNat) ∧
    (unpackAuthorReply b).args.flatten = b.drop (6 + num8 b 1 + num16 b (2 + num8 b 1) + num16 b (4 + num8 b 1)) := by
  rw [← unbe16_toNat, ← unbe16_toNat]
  refine cutBytes_spec (authorReplyTable b) _ ?_
  rw [List.length_drop, ← h, authorReplyNeed]
  exact (Nat.add_sub_cancel_left _ _).symm

theorem unpackAuthorReply_args_length : (unpackAuthorReply b).args.length = num8 b 1 := by
  have hle := le_authorReplyNeed b
  have htable := congrArg List.length (unpackAuthorReply_args h).1
  rwa [List.length_map, List.length_map, memRead_length (by omega)] at htable

theorem unpackAuthorReply_table : (unpackAuthorReply b).args.map lenByte = memRead b 2 (num8 b 1) := by
  have htable := congrArg (List.map (BitVec.ofNat 8)) (unpackAuthorReply_args h).1
  rw [List.map_map, List.map_map] at htable
  exact htable.trans (by simp [Function.comp_def])

/-- A body whose lengths add up is the layout of the record it holds. -/
theorem authorReplyBody_unpackAuthorReply : authorReplyBody (unpackAuthorReply b).status (unpackAuthorReply b).args
    (unpackAuthorReply b).msg (unpackAuthorReply b).data = b := by
  have hneed := authorReplyNeed_eq b (h ▸ le_authorReplyNeed b)
  have hcount : BitVec.ofNat 8 (num8 b 1) = byteAt b 1 := by simp [num8, byteAt]
  have hmsg : (unpackAuthorReply b).msg = memRead b (6 + num8 b 1) (num16 b (2 + num8 b 1)) := by
    rw [← unbe16_toNat]; rfl
  have hdata : (unpackAuthorReply b).data =
      memRead b (6 + num8 b 1 + num16 b (2 + num8 b 1)) (num16 b (4 + num8 b 1)) := by
    rw [← unbe16_toNat, ← unbe16_toNat]; rfl
  rw [authorReplyBody, unpackAuthorReply_args_length h, unpackAuthorReply_table h, (unpackAuthorReply_args h).2, hmsg, hdata,
    memRead_length (by omega), memRead_length (by omega), ← memRead_two (by omega), ← memRead_two (by omega), hcount]
  simp only [List.append_assoc, memRead_append_drop]
  rw [show 6 + num8 b 1 = 4 + num8 b 1 + 2 by omega, memRead_append_drop, show 4 + num8 b 1 = 2 + num8 b 1 + 2 by omega,
    memRead_append_drop, memRead_append_drop]
  exact heads_append_drop 2 b (by omega)

end

theorem unpackAuthorReply_bounds (b : Bytes) : (∀ a ∈ (unpackAuthorReply b).args, a.length ≤ 255) ∧
    (unpackAuthorReply b).msg.length ≤ 65535 ∧ (unpackAuthorReply b).data.length ≤ 65535 := by
  have hword (off i : Nat) : (memRead b off (unbe16 b i).toNat).length ≤ 65535 :=
    (memRead_length_le b off _).trans (Nat.le_of_lt_succ (unbe16 b i).isLt)
  refine ⟨cutBytes_bound _ _ fun l hl => ?_, hword _ _, hword _ _⟩
  obtain ⟨v, -, rfl⟩ := List.mem_map.1 hl
  exact Nat.le_of_lt_succ v.isLt

/-- A presented record passes every check and is the one the body holds. -/
theorem verdict_none_of_authorReplyPresented {s : State} {status : Byte} {args : List Bytes} {msg data : Bytes}
    (h : AuthorReplyPresented s status args msg data) :
    authorReplyVerdict s.params s.regs.hSeq s.mem.body s.regs.hLen.toNat = none ∧
      unpackAuthorReply s.mem.body = ⟨status, BitVec.ofNat 8 args.length, msg, data, args⟩ := by
  obtain ⟨hhas, hbody, hlen, hcount, hargs, hm, hd, hstatus⟩ := h
  have hneed := authorReplyNeed_authorReplyBody (status := status) hcount hargs hm hd
  obtain ⟨-, -, -, hunpack, -⟩ := authorReplyBody_spec (status := status) hcount hargs hm hd
  rw [hbody, hlen]
  exact ⟨authorReplyVerdict_eq_none_iff.2 ⟨hhas, hstatus, hneed, hneed⟩, hunpack⟩

/-- Where every check passes, the record the body holds is presented. -/
theorem authorReplyPresented_of_verdict_none {s : State}
    (hv : authorReplyVerdict s.params s.regs.hSeq s.mem.body s.regs.hLen.toNat = none) :
    AuthorReplyPresented s (unpackAuthorReply s.mem.body).status (unpackAuthorReply s.mem.body).args
      (unpackAuthorReply s.mem.body).msg (unpackAuthorReply s.mem.body).data := by
  obtain ⟨hhas, hstatus, hneed, hlen⟩ := authorReplyVerdict_eq_none_iff.1 hv
  have hbody := authorReplyBody_unpackAuthorReply hneed
  have hcount := (unpackAuthorReply_args_length hneed).trans_le (Nat.le_of_lt_succ (num8_lt _ 1))
  obtain ⟨hargs, hm, hd⟩ := unpackAuthorReply_bounds s.mem.body
  exact ⟨hhas, hbody.symm, by rw [hbody, ← hlen, hneed], hcount, hargs, hm, hd, hstatus⟩

/-- The arguments listed replace their buffers from index 0; the others keep theirs. -/
theorem State.putAuthorReply_stored (s : State) (status : Byte) (args : List Bytes) (msg data : Bytes) :
    AuthorReplyStored s (s.putAuthorReply ⟨status, BitVec.ofNat 8 args.length, msg, data, args⟩).complete status args msg data :=
  ⟨writeArgs s.mem.args 0 args, fun i => writeArgs_getElem args s.mem.args 0 i.val i.isLt, rfl⟩

theorem exec_zrDec_of_presented {s : State} {status : Byte} {args : List Bytes} {msg data : Bytes}
    (h : AuthorReplyPresented s status args msg data) :
    ∃ t, exec .zrDec s = .next t ∧ AuthorReplyStored s t status args msg data := by
  obtain ⟨hv, hunpack⟩ := verdict_none_of_authorReplyPresented h
  have hexec := exec_of_verdict_none (exec_zrDec s) hv
  rw [hunpack] at hexec
  exact ⟨_, hexec, s.putAuthorReply_stored status args msg data⟩

end Sys2Proof.Machine
end

section
open Sys2Proof Sys2Proof.Machine

/-- Settles O49: the verdict on the four scalars decides between the write of BODY and the error. -/
theorem zqEncWritesRequest : Obligations.ZqEncWritesRequest :=
  fun s => ⟨exec_zqEnc_of_valid, fun _ => exec_of_verdict (exec_zqEnc s)⟩

/-- Settles O50: within the caps the table holds each argument's length without loss, and the body's length fits `H_LEN`. -/
theorem requestTableConsistent : Obligations.RequestTableConsistent := by
  intro s t hwf hexec hok
  obtain ⟨-, rfl⟩ := verdict_none_of_exec_ok (exec_zqEnc s) hexec hok
  exact ⟨num8_requestBody_argCnt s.regs s.mem, fun _ => num8_requestBody_table hwf, requestBody_length_of_table hwf,
    fun _ => exec_pktAsm_hLen (requestBody_length_le s hwf)⟩

/-- Settles O51: an Authorization Reply is presented exactly where the parser's verdict is clean, and it is the one the body holds. -/
theorem zrDecStoresAuthorReply : Obligations.ZrDecStoresAuthorReply :=
  ⟨fun _ _ _ _ _ => exec_zrDec_of_presented, fun s _ => exec_of_verdict (exec_zrDec s),
    fun _ hv => ⟨_, _, _, _, authorReplyPresented_of_verdict_none hv⟩⟩

end

/-! PROOFS. Packet assembly, disassembly and body dispatch, and the way from one block to another (44_packet_ops.md R200 to R209). -/

section
namespace Sys2Proof.Machine

/-! ### How a command ended -/

/-- A success keeps the fault latch (60_exceptions.md R238). -/
theorem State.complete_noFaultRecorded (s : State) : s.complete.NoFaultRecorded ↔ s.NoFaultRecorded := by
  simp [State.NoFaultRecorded]

/-- Where a command failed, one of its checks did and only its error was recorded. -/
theorem verdict_some_of_exec_not_ok {i : Instr} {s t after : State} {v : Option CmdError}
    (hform : exec i s = .next (s.conclude v after)) (hexec : exec i s = .next t) (hfail : ¬t.Ok) :
    ∃ e, v = some e ∧ t = s.enterError e := by
  rw [hform] at hexec
  cases hexec
  cases v with
  | none => exact absurd after.complete_ok hfail
  | some e => exact ⟨e, rfl, rfl⟩

/-! ### The header of a packet -/

theorem headerVerdict_eq_none_iff {p : Params} {h : Header} : headerVerdict p h = none ↔
    validMajor p h.major = true ∧ validMinor p h.minor = true ∧ validType h.ptype = true ∧ validFlags h.flags = true := by
  unfold headerVerdict
  split_ifs <;> simp_all

/-- An Accounting header is accepted wherever its other fields are (R207). -/
theorem headerVerdict_of_accounting {p : Params} {h : Header} (htype : h.ptype = 3) (hmajor : validMajor p h.major = true)
    (hminor : validMinor p h.minor = true) (hflags : validFlags h.flags = true) : headerVerdict p h = none :=
  headerVerdict_eq_none_iff.2 ⟨hmajor, hminor, htype ▸ rfl, hflags⟩

theorem State.outHeader_len {s : State} (hcap : s.mem.body.length < 2 ^ 32) :
    s.outHeader.len.toNat = s.mem.body.length := by
  rw [State.outHeader, BitVec.toNat_ofNat, Nat.mod_eq_of_lt hcap]

theorem Memory.body_length_lt {m : Memory} (hwf : m.wf = true) : m.body.length < 2 ^ 32 :=
  Nat.lt_succ_of_le ((Memory.wf_iff m).1 hwf .body)

/-! ### PKT_ASM (R201) -/

/-- A packet: the 12 header bytes, then the ciphered body (R200). -/
def packetBytes (h : Header) (secret body : Bytes) : Bytes := headerBytes h ++ cipherBody h secret body

/-- What PKT_ASM writes: `H_LEN` and `WIRE`. -/
def State.putWire (s : State) : State :=
  { s with
    regs := { s.regs with hLen := s.outHeader.len }
    mem := { s.mem with wire := packetBytes s.outHeader s.mem.secret s.mem.body } }

section
variable {s t : State}

theorem exec_pktAsm_of_valid (hheader : headerVerdict s.params s.regs.header = none)
    (hsecret : secretVerdict s.regs.hFlags s.regs.secretPresent = none) : exec .pktAsm s = .next s.putWire.complete :=
  exec_of_verdict_none (exec_pktAsm s) (Option.or_eq_none_iff.2 ⟨hheader, hsecret⟩)

/-- Where PKT_ASM succeeded, the header and the secret passed and the packet is in `WIRE`. -/
theorem exec_pktAsm_ok (hexec : exec .pktAsm s = .next t) (hok : t.Ok) : headerVerdict s.params s.regs.header = none ∧
    secretVerdict s.regs.hFlags s.regs.secretPresent = none ∧ t = s.putWire.complete := by
  obtain ⟨hv, ht⟩ := verdict_none_of_exec_ok (exec_pktAsm s) hexec hok
  obtain ⟨hheader, hsecret⟩ := Option.or_eq_none_iff.1 hv
  exact ⟨hheader, hsecret, ht⟩

/-- With a valid header the null secret decides. -/
theorem exec_pktAsm_of_secretVerdict {e : CmdError} (hheader : headerVerdict s.params s.regs.header = none)
    (hsecret : secretVerdict s.regs.hFlags s.regs.secretPresent = some e) : exec .pktAsm s = .next (s.enterError e) :=
  exec_of_verdict (exec_pktAsm s) (by rw [hheader, hsecret, Option.none_or])

end

/-! ### PKT_DIS (R202) -/

/-- What PKT_DIS writes: the header registers and `BODY`. -/
def State.putPacket (s : State) (h : Header) (body : Bytes) : State :=
  { s with
    regs := s.regs.setHeader h
    mem := { s.mem with body := body } }

/-- A valid header, as many bytes as it declares, and a secret where it asks for one pass every check. -/
theorem packetVerdict_of_packet {p : Params} {h : Header} {c : Bytes} {present : BitVec 1}
    (hlen : c.length = h.len.toNat) (hheader : headerVerdict p h = none) (hsecret : secretVerdict h.flags present = none) :
    packetVerdict p (headerBytes h ++ c) present = none := by
  have hunpack := hdrUnpack_headerBytes h c
  have hdeclared : num32 (headerBytes h ++ c) 8 = h.len.toNat := by
    rw [← unbe32_toNat]
    exact congrArg (·.len.toNat) hunpack
  have hlength : (headerBytes h ++ c).length = 12 + h.len.toNat := by rw [List.length_append, headerBytes_length, hlen]
  rw [packetVerdict, if_neg (by omega), ← hdrUnpack_eq, hunpack, hheader]
  exact (if_neg (by omega)).trans hsecret

theorem exec_pktDis_of_packet {s : State} {h : Header} {c : Bytes} (hwire : s.mem.wire = headerBytes h ++ c)
    (hlen : c.length = h.len.toNat) (hheader : headerVerdict s.params h = none)
    (hsecret : secretVerdict h.flags s.regs.secretPresent = none) :
    exec .pktDis s = .next (s.putPacket h (cipherBody h s.mem.secret c)).complete := by
  have hexec := exec_of_verdict_none (exec_pktDis s) (hwire ▸ packetVerdict_of_packet hlen hheader hsecret)
  rwa [hwire, hdrUnpack_headerBytes, memRead_end _ _ (headerBytes_length h) hlen] at hexec

/-- A block takes apart the packet that another one of the same parameters and secret, or the same block, assembled (R208). -/
theorem exec_pktDis_of_putWire {s r : State} (hwire : r.mem.wire = s.putWire.mem.wire) (hparams : r.params = s.params)
    (hkey : r.mem.secret = s.mem.secret) (hpresent : r.regs.secretPresent = s.regs.secretPresent)
    (hcap : s.mem.body.length < 2 ^ 32) (hheader : headerVerdict s.params s.regs.header = none)
    (hsecret : secretVerdict s.regs.hFlags s.regs.secretPresent = none) :
    exec .pktDis r = .next (r.putPacket s.outHeader s.mem.body).complete := by
  have hexec := exec_pktDis_of_packet hwire (by rw [cipherBody_length, State.outHeader_len hcap])
    (hparams ▸ hheader) (hpresent ▸ hsecret)
  rwa [hkey, cipherBody_twice] at hexec

/-! ### BODY_DEC and the dispatch table (R203, R204) -/

/-- Between the first and the last sequence number an Authentication body is the server's or the client's by its parity. -/
theorem bodyRoute_authen {seq : Byte} (hfirst : seq ≠ 1) (hzero : seq ≠ 0) (hlast : seq ≠ 255) :
    bodyRoute 1 seq = if seq.toNat % 2 = 0 then .reply else .cont := by
  rw [bodyRoute, if_pos rfl, if_neg hfirst, if_neg (not_or.2 ⟨hzero, hlast⟩)]

theorem bodyRoute_reply {seq : Byte} (heven : seq.toNat % 2 = 0) (hzero : seq ≠ 0) : bodyRoute 1 seq = .reply := by
  rw [bodyRoute_authen ?first hzero ?last, if_pos heven]
  all_goals
    rintro rfl
    exact absurd heven (by decide)

theorem bodyRoute_cont {seq : Byte} (hodd : seq.toNat % 2 = 1) (hmin : 3 ≤ seq.toNat) (hmax : seq.toNat ≤ 253) :
    bodyRoute 1 seq = .cont := by
  have hinner (n : Byte) (hn : n.toNat < 3 ∨ 253 < n.toNat) : seq ≠ n := by
    rintro rfl
    omega
  rw [bodyRoute_authen (hinner 1 (by decide)) (hinner 0 (by decide)) (hinner 255 (by decide)), if_neg (by omega)]

theorem bodyRoute_authen_refuse {seq : Byte} (hseq : seq = 0 ∨ seq = 255) :
    bodyRoute 1 seq = .refuse ⟨.unsupportedType, 1, seq.toNat, 0⟩ := by
  rcases hseq with rfl | rfl <;> rfl

theorem bodyRoute_author_refuse {seq : Byte} (hseq : seq ≠ 2) :
    bodyRoute 2 seq = .refuse ⟨.unsupportedType, 2, seq.toNat, 0⟩ := if_neg hseq

theorem bodyRoute_accounting (seq : Byte) : bodyRoute 3 seq = .refuse ⟨.unsupportedType, 3, seq.toNat, 0⟩ := rfl

theorem bodyRoute_invalid {ptype : Byte} (h1 : ptype ≠ 1) (h2 : ptype ≠ 2) (h3 : ptype ≠ 3) (seq : Byte) :
    bodyRoute ptype seq = .refuse ⟨.invalidField, ptype.toNat, 0, 3⟩ := by
  rw [bodyRoute, if_neg h1, if_neg h2, if_neg h3]

section
variable {s : State}

theorem exec_bodyDec_of_route {route : BodyRoute} (h : bodyRoute s.regs.hType s.regs.hSeq = route) :
    exec .bodyDec s = .next (s.parseBody route) := by
  rw [← h]
  rfl

theorem exec_bodyDec_start (htype : s.regs.hType = 1) (hseq : s.regs.hSeq = 1) : exec .bodyDec s = exec .asDec s :=
  exec_bodyDec_of_route (route := .start) (by rw [htype, hseq]; rfl)

theorem exec_bodyDec_reply (htype : s.regs.hType = 1) (heven : s.regs.hSeq.toNat % 2 = 0) (hseq : s.regs.hSeq ≠ 0) :
    exec .bodyDec s = exec .arDec s :=
  exec_bodyDec_of_route (route := .reply) (htype ▸ bodyRoute_reply heven hseq)

theorem exec_bodyDec_cont (htype : s.regs.hType = 1) (hodd : s.regs.hSeq.toNat % 2 = 1) (hmin : 3 ≤ s.regs.hSeq.toNat)
    (hmax : s.regs.hSeq.toNat ≤ 253) : exec .bodyDec s = exec .acDec s :=
  exec_bodyDec_of_route (route := .cont) (htype ▸ bodyRoute_cont hodd hmin hmax)

theorem exec_bodyDec_authorReply (htype : s.regs.hType = 2) (hseq : s.regs.hSeq = 2) : exec .bodyDec s = exec .zrDec s :=
  exec_bodyDec_of_route (route := .authorReply) (by rw [htype, hseq]; rfl)

theorem exec_bodyDec_accounting (htype : s.regs.hType = 3) :
    exec .bodyDec s = .next (s.raise .unsupportedType 3 s.regs.hSeq.toNat 0) :=
  exec_bodyDec_of_route (htype ▸ bodyRoute_accounting s.regs.hSeq)

end

/-! ### From one block to another -/

/-- The second block once it has taken apart the packet of `body` that the first one assembled and the host carried. -/
def State.received (r s : State) (body : Bytes) : State :=
  (({ r with mem := { r.mem with wire := (s.writeBuf .body body).putWire.mem.wire } } : State).putPacket
    (s.writeBuf .body body).outHeader body).complete

section
variable {s r : State} (hparams : r.params = s.params)
include hparams

/-- The second block's parser finds the record laid out, its length in `H_LEN`, and the sets it was checked against. -/
theorem BodyLayout.presents_received {R : Type} {L : BodyLayout R} {x : R} (hfits : L.Fits x)
    (hfields : L.fields s.params x = none) :
    L.Presents (r.received s (L.write x)).params (r.received s (L.write x)).mem.body
      (r.received s (L.write x)).regs.hLen.toNat x := by
  change L.Presents r.params _ _ x
  rw [hparams]
  exact L.presents_written hfits hfields

variable (hkey : r.mem.secret = s.mem.secret) (hpresent : r.regs.secretPresent = s.regs.secretPresent)
  (hheader : headerVerdict s.params s.regs.header = none)
  (hsecret : secretVerdict s.regs.hFlags s.regs.secretPresent = none)
  (hs : s.NoFaultRecorded) (hr : r.NoFaultRecorded)
include hkey hpresent hheader hsecret hs hr

/-- A record that the first block lays out is assembled, carried, taken apart and stored by the parser that BODY_DEC selects in the
second block. -/
theorem endToEnd_of_layout {R : Type} {L : BodyLayout R} {enc dec : Instr} {record : State → R} {stored : State → State}
    (hfits : L.Fits (record s)) (hfields : L.fields s.params (record s) = none)
    (henc : exec enc s = .next (s.writeBuf .body (L.write (record s))).complete)
    (hdispatch : exec .bodyDec (r.received s (L.write (record s))) = exec dec (r.received s (L.write (record s))))
    (hdec : ∀ t, L.Presents t.params t.mem.body t.regs.hLen.toNat (record s) → exec dec t = .next (stored t).complete)
    (hstatus : ∀ t, (stored t).regs.status = t.regs.status) (hrecord : ∀ t, record (stored t).complete = record s) :
    ∃ a b c d, exec enc s = .next a ∧ exec .pktAsm a = .next b ∧
      exec .pktDis { r with mem := { r.mem with wire := b.mem.wire } } = .next c ∧ exec .bodyDec c = .next d ∧
      b.Ok ∧ d.Ok ∧ b.NoFaultRecorded ∧ d.NoFaultRecorded ∧ record d = record s := by
  refine ⟨_, _, _, _, henc, exec_pktAsm_of_valid hheader hsecret,
    exec_pktDis_of_putWire (s := (s.writeBuf .body (L.write (record s))).complete) rfl hparams hkey hpresent
      (L.length_write_lt hfits) hheader hsecret,
    hdispatch.trans (hdec _ (BodyLayout.presents_received hparams hfits hfields)), State.complete_ok _, State.complete_ok _,
    ?_, ?_, hrecord _⟩
  · exact (State.complete_noFaultRecorded _).2 (s.complete_noFaultRecorded.2 hs)
  · rw [State.complete_noFaultRecorded, State.NoFaultRecorded, hstatus]
    exact r.complete_noFaultRecorded.2 hr

end

end Sys2Proof.Machine
end

section
open Sys2Proof Sys2Proof.Machine

/-- Settles O52: the model's own header and ciphered body; the header's verdict comes before the secret's. -/
theorem pktAsmAssemblesPacket : Obligations.PktAsmAssemblesPacket := by
  refine fun s hwf => ⟨fun hheader hsecret => ?_, fun _ he => exec_of_headerVerdict he (.inr rfl),
    fun _ => exec_pktAsm_of_secretVerdict⟩
  exact ⟨_, s.outHeader.len, State.outHeader_len (Memory.body_length_lt hwf), cipherBody_ciphered _ _ _,
    exec_pktAsm_of_valid hheader hsecret⟩

/-- Settles O53: the header is read back from its bytes, and keys the cipher on what follows them. -/
theorem pktDisTakesPacketApart : Obligations.PktDisTakesPacketApart :=
  ⟨fun _ _ _ hwire hlen hheader hsecret => ⟨_, cipherBody_ciphered _ _ _, exec_pktDis_of_packet hwire hlen hheader hsecret⟩,
    fun s _ => exec_of_verdict (exec_pktDis s),
    fun s hv => ⟨_, exec_of_verdict_none (exec_pktDis s) hv, State.complete_ok _⟩⟩

/-- Settles O54: row by row of the dispatch table. -/
theorem bodyDecDispatches : Obligations.BodyDecDispatches :=
  ⟨fun _ _ htype hseq h => (exec_bodyDec_start htype hseq).trans (exec_asDec_of_presented h),
    fun _ => exec_bodyDec_start, fun _ => exec_bodyDec_reply, fun _ => exec_bodyDec_cont,
    fun _ htype hseq => exec_bodyDec_of_route (htype ▸ bodyRoute_authen_refuse hseq),
    fun _ => exec_bodyDec_authorReply,
    fun _ htype hseq => exec_bodyDec_of_route (htype ▸ bodyRoute_author_refuse hseq),
    fun _ => exec_bodyDec_accounting,
    fun _ h1 h2 h3 => exec_bodyDec_of_route (bodyRoute_invalid h1 h2 h3 _)⟩

/-- Settles O55: type 3 passes the header's tests, and its rows of the dispatch table refuse. -/
theorem accountingHeaderAcceptedBodyUnsupported : Obligations.AccountingHeaderAcceptedBodyUnsupported := by
  refine ⟨fun s htype hmajor hminor hflags => ?_, fun _ => exec_bodyDec_accounting⟩
  have hheader : headerVerdict s.params s.regs.header = none := headerVerdict_of_accounting htype hmajor hminor hflags
  refine ⟨⟨_, _, exec_hdrEnc_of_valid hheader, State.complete_ok _, exec_hdrDec_of_valid rfl hheader, State.complete_ok _,
    htype⟩, fun hwf hsecret => ?_⟩
  exact ⟨_, _, exec_pktAsm_of_valid hheader hsecret, State.complete_ok _,
    exec_pktDis_of_putWire rfl rfl rfl rfl (Memory.body_length_lt hwf) hheader hsecret, State.complete_ok _, htype⟩

/-- Settles O56: PKT_ASM leaves in WIRE what PKT_DIS takes apart, and the cipher undoes itself. -/
theorem assemblyRoundTrip : Obligations.AssemblyRoundTrip := by
  intro s t hwf hexec hok
  obtain ⟨hheader, hsecret, rfl⟩ := exec_pktAsm_ok hexec hok
  have hcap := Memory.body_length_lt hwf
  exact ⟨_, exec_pktDis_of_putWire rfl rfl rfl rfl hcap hheader hsecret, State.complete_ok _, rfl,
    State.outHeader_len hcap, rfl⟩

/-- Settles O57: the two commands make PKT_ASM's two checks, in its order, on the same header and secret. -/
theorem assemblyIsComposition : Obligations.AssemblyIsComposition := by
  refine fun s => ⟨fun a b henc haok hcipher hbok => ?_, fun a henc hfail => ?_, fun a b henc haok hcipher hfail => ?_⟩
  · obtain ⟨hheader, rfl⟩ := verdict_none_of_exec_ok (exec_hdrEnc s.setLen) henc haok
    obtain ⟨hsecret, rfl⟩ := exec_cipher_ok hcipher hbok
    exact ⟨_, exec_pktAsm_of_valid hheader hsecret, State.complete_ok _, rfl, rfl, rfl, rfl⟩
  · obtain ⟨e, he, rfl⟩ := verdict_some_of_exec_not_ok (exec_hdrEnc s.setLen) henc hfail
    exact ⟨_, exec_of_headerVerdict he (.inr rfl), rfl, rfl, rfl, rfl, rfl⟩
  · obtain ⟨hheader, rfl⟩ := verdict_none_of_exec_ok (exec_hdrEnc s.setLen) henc haok
    obtain ⟨e, he, rfl⟩ := verdict_some_of_exec_not_ok (exec_cipher _) hcipher hfail
    exact ⟨_, exec_pktAsm_of_secretVerdict hheader he, rfl, rfl⟩

/-- Settles O58: what the first block wrote is presented to the parser that the dispatch table selects in the second. -/
theorem authenticationEndToEnd : Obligations.AuthenticationEndToEnd := by
  intro s r hwf hparams hkey hpresent hheader hsecret htype hs hr
  have hcarried := @endToEnd_of_layout s r hparams hkey hpresent hheader hsecret hs hr
  refine ⟨fun hseq hfields => ?_, fun heven hzero hfields => ?_, fun hodd hmin hmax hfields => ?_⟩
  · exact hcarried (State.startRecord_fits hwf) hfields (exec_asEnc_of_valid hfields)
      (exec_bodyDec_start htype hseq) (fun _ h => exec_asDec_of_presented (startPresented_iff_layout.2 h))
      (fun _ => rfl) fun _ => rfl
  · exact hcarried (State.replyRecord_fits hwf) hfields (exec_arEnc_of_valid hfields)
      (exec_bodyDec_reply htype heven hzero) (fun _ h => exec_arDec_of_presented (replyPresented_iff_layout.2 h))
      (fun _ => rfl) fun _ => rfl
  · exact hcarried (State.continueRecord_fits hwf) hfields (exec_acEnc_of_valid hfields)
      (exec_bodyDec_cont htype hodd hmin hmax) (fun _ h => exec_acDec_of_presented (continuePresented_iff_layout.2 h))
      (fun _ => rfl) fun _ => rfl

end


/-! PROOFS. The system commands NOP, CLRF and SRST (45_system_ops.md R220 to R223). -/

section
namespace Sys2Proof.Machine

/-! ### A command that makes no check always succeeds -/

theorem exec_nop (s : State) : exec .nop s = .next s.complete :=
  congrArg Host.Outcome.next (State.settle_nil s s)

theorem exec_clrf (s : State) : exec .clrf s = .next s.clearFault.complete :=
  congrArg Host.Outcome.next (State.settle_nil s s.clearFault)

/-- The success adds nothing to the reset: it finds the status registers 0 already. -/
theorem exec_srst (s : State) : exec .srst s = .next s.resetBlock := by
  have hcomplete : s.resetBlock.complete = s.resetBlock := State.complete_of_reset (State.resetBlock_regs s)
  exact congrArg Host.Outcome.next ((State.settle_nil s s.resetBlock).trans hcomplete)

/-! ### The status that CLRF and SRST leave -/

/-- No code and no latch: `STATUS = 0` (10_state.md R25). -/
@[simp] theorem statusWord_zero_false : statusWord 0 false = 0 := by decide

/-- The latch is cleared first, so the word that success writes has neither latch nor code. -/
theorem State.clearFault_complete (s : State) : s.clearFault.complete =
    { s with regs := { s.regs with status := 0, errA := 0, errB := 0, errF := 0 } } := by
  rw [State.complete, State.clearFault_status, statusFlt_statusWord, statusWord_zero_false]
  rfl

/-- The reset flags byte 0 derives `0b01` (10_state.md R24). -/
theorem Regs.reset_read_hDerived : Regs.reset.read .hDerived = 1 := by decide

end Sys2Proof.Machine
end

section
open Sys2Proof Sys2Proof.Machine

/-- Settles O17: NOP is a bare success, and a success writes the four status registers around the latch. -/
theorem nopKeepsLatch : Obligations.NopKeepsLatch := exec_nop

/-- Settles O18: a success after the latch is cleared leaves STATUS 0. -/
theorem clrfClearsStatus : Obligations.ClrfClearsStatus :=
  fun s => (exec_clrf s).trans (congrArg Host.Outcome.next s.clearFault_complete)

/-- Settles O19: SRST writes the reset values of registers and buffers, which a success leaves as they are. -/
theorem srstEqualsReset : Obligations.SrstEqualsReset :=
  fun s => ⟨s.resetBlock, exec_srst s, State.resetBlock_regs s, State.resetBlock_mem s, State.resetBlock_params s,
    Regs.reset_read_hDerived⟩

end

/-! PROOFS. How a command ends, and what the status registers hold then: all or nothing, no host-side code, no part in the next
command, a sticky latch (60_exceptions.md R238 to R240, R245). -/

section
namespace Sys2Proof.Machine

/-! ### The two ends of a command -/

/-- Success leaves the latch as the command's writes left it (60_exceptions.md R238). -/
theorem State.complete_flt (s : State) : statusFlt s.complete.regs.status = statusFlt s.regs.status := by simp

/-- An error sets the latch (60_exceptions.md R239). -/
theorem State.enterError_flt (s : State) (e : CmdError) : statusFlt (s.enterError e).regs.status = true := by simp

/-- No command but CLRF and SRST clears a set latch. -/
theorem CommandForm.conclude_flt {i : Instr} {s after : State} {v : Option CmdError} (h : CommandForm i s v after)
    (hset : statusFlt s.regs.status = true) (hi : i ≠ .clrf ∧ i ≠ .srst) :
    statusFlt (s.conclude v after).regs.status = true := by
  cases v with
  | none => rw [State.conclude_none, State.complete_flt, h.flt, hset, decide_eq_true hi, Bool.and_self]
  | some e => exact s.enterError_flt e

/-! ### The write to CMD -/

theorem ne_hostCode_of_mem_blockCodes {c : BitVec 4} (h : c ∈ blockCodes) : c ≠ 5 ∧ c ≠ 6 ∧ c ≠ 9 := by
  revert c
  decide

theorem runCommand_ne_hostCode {op : Byte} {s t : State} (h : runCommand op s = .next t) :
    statusErr t.regs.status ≠ 5 ∧ statusErr t.regs.status ≠ 6 ∧ statusErr t.regs.status ≠ 9 := by
  obtain ⟨-, hcode, -⟩ := runCommand_statusOk h
  exact ne_hostCode_of_mem_blockCodes hcode

/-- 0x01 and 0x02 are the words of CLRF and SRST; an illegal word sets the latch as every error does. -/
theorem runCommand_flt {op : Byte} {s t : State} (h : runCommand op s = .next t) (hset : statusFlt s.regs.status = true)
    (hclrf : op ≠ 0x01) (hsrst : op ≠ 0x02) : statusFlt t.regs.status = true := by
  by_cases hd : ∃ i, decode op = .ok i
  · obtain ⟨i, hi⟩ := hd
    obtain ⟨v, after, hform⟩ := command_form i s
    rw [runCommand_ok hi, hform.eq] at h
    cases h
    have hop : encode i = op := encode_of_decode hi
    refine hform.conclude_flt hset ⟨?_, ?_⟩
    · rintro rfl; exact hclrf hop.symm
    · rintro rfl; exact hsrst hop.symm
  · rw [runCommand_error (by simpa using hd)] at h
    cases h
    exact s.enterError_flt _

/-- STATUS after a step: as a command left it, as reset left it, or untouched (10_state.md R25). -/
theorem step_status_cases {s t : State} (h : step s = .next t) :
    (∃ op rest, s.pending = .regWrite .cmd op :: rest ∧
        runCommand op { s with pending := rest, answer := none } = .next t) ∨
      (∃ rest, s.pending = .hardReset :: rest ∧ t.regs = Regs.reset) ∨ t.regs.status = s.regs.status := by
  obtain ⟨-, rfl⟩ | ⟨x, rest, hp, hrun⟩ := step_cases h
  · exact .inr (.inr rfl)
  · obtain ⟨op, rfl, hcmd⟩ | ⟨rfl, rfl⟩ | ⟨r, v, -, -, rfl⟩ | ⟨b, bytes, -, -, rfl⟩ | ⟨a, rfl⟩ := runTxn_cases hrun
    · exact .inl ⟨op, rest, hp, hcmd⟩
    · exact .inr (.inl ⟨rest, hp, rfl⟩)
    · exact .inr (.inr (Regs.write_keeps_status s.regs r v).1)
    · exact .inr (.inr rfl)
    · exact .inr (.inr rfl)

/-! ### A command does not read the status registers -/

theorem readsReg_not_status {i : Instr} {r : Reg} (h : readsReg i r = true) : r.isStatus = false := by
  cases r
  case status | errA | errB | errF => cases i <;> cases h
  all_goals rfl

/-- The buffer space is what its buffers hold. -/
theorem Memory.ext_read {m m' : Memory} (h : ∀ b, m.read b = m'.read b) : m = m' := by
  have hargs : m.args = m'.args := Vector.ext fun i hi => h (.arg ⟨i, hi⟩)
  cases m
  cases m'
  simp only [Memory.mk.injEq]
  exact ⟨h .hbuf, h .wire, h .body, h .secret, h .user, h .port, h .remAddr, h .content, h .msg, h .data, hargs⟩

/-- The state with other values in the status registers. -/
def State.withStatus (s : State) (status errA errB : Word) (errF : Byte) : State :=
  { s with regs := { s.regs with status := status, errA := errA, errB := errB, errF := errF } }

theorem State.withStatus_read {r : Reg} (hr : r.isStatus = false) (s : State) (status errA errB : Word) (errF : Byte) :
    (s.withStatus status errA errB errF).regs.read r = s.regs.read r := by
  cases r
  case status | errA | errB | errF => cases hr
  all_goals rfl

theorem agreeOnReads_withStatus (i : Instr) (s : State) (status errA errB : Word) (errF : Byte) :
    AgreeOnReads i s (s.withStatus status errA errB errF) where
  params := rfl
  regs _ hr := (State.withStatus_read (readsReg_not_status hr) s status errA errB errF).symm
  mem _ _ := rfl

section
variable {s t t' : State} {status errA errB : Word} {errF : Byte} (h : EndAlike s (s.withStatus status errA errB errF) t t')
include h

/-- What neither run wrote was the same in both before. -/
theorem EndAlike.read_eq_of_withStatus {r : Reg} (hr : r ≠ .status) : t'.regs.read r = t.regs.read r := by
  obtain ⟨-, ha, hb, hf⟩ := h.status_eq
  obtain heq | ⟨hs, hs'⟩ := h.read_eq_or_untouched r hr
  · exact heq.symm
  · cases r
    case status => exact absurd rfl hr
    case errA => exact ha.symm
    case errB => exact hb.symm
    case errF => exact hf.symm
    all_goals exact hs'.trans hs.symm

theorem EndAlike.mem_eq_of_withStatus : t'.mem = t.mem := by
  refine Memory.ext_read fun b => ?_
  obtain heq | ⟨hs, hs'⟩ := h.sameWrites.mem b
  · exact heq.symm
  · exact hs'.trans hs.symm

end
end Sys2Proof.Machine
end

section
open Sys2Proof Sys2Proof.Machine

/-- Settles O21: the form of a command gives its latch on success, and an error is entered as R239 says. -/
theorem commandsAreAllOrNothing : Obligations.CommandsAreAllOrNothing := by
  intro i s
  obtain ⟨v, after, hform⟩ := command_form i s
  refine ⟨_, hform.eq, ?_⟩
  cases v with
  | none =>
    exact .inl ⟨statusErr_statusWord _ _, statusReserved_statusWord _ _, rfl, rfl, rfl, after.complete_flt.trans hform.flt⟩
  | some e => exact .inr ⟨e.kind, e.a, e.b, e.f, rfl⟩

/-- Settles O22: a write to CMD leaves a code of the block, reset leaves 0, and nothing else touches STATUS. -/
theorem hostKindsNeverWritten : Obligations.HostKindsNeverWritten := by
  refine ⟨fun op s t h => runCommand_ne_hostCode h, fun s t h hs => ?_⟩
  obtain ⟨op, rest, -, hcmd⟩ | ⟨rest, -, hreset⟩ | hsame := step_status_cases h
  · exact runCommand_ne_hostCode hcmd
  · rw [hreset]; decide
  · rw [hsame]; exact hs

/-- Settles O23: the status registers are in no command's "reads" column, so two runs that differ only there end alike; a step
clears a set latch only by one of the three ways named. -/
theorem nextCommandIgnoresStatus : Obligations.NextCommandIgnoresStatus := by
  refine ⟨fun i s status errA errB errF => ?_, fun s t h hset hclrf hsrst hreset => ?_⟩
  · obtain ⟨t, t', ht, ht', hend⟩ := (agreeOnReads_withStatus i s status errA errB errF).runsAlike
    obtain ⟨herr, -⟩ := hend.status_eq
    exact ⟨t, t', ht, ht', hend.mem_eq_of_withStatus, fun r hr => hend.read_eq_of_withStatus hr, herr.symm⟩
  · obtain ⟨op, rest, hp, hcmd⟩ | ⟨rest, hp, -⟩ | hsame := step_status_cases h
    · exact runCommand_flt hcmd hset (fun hop => hclrf rest (hop ▸ hp)) (fun hop => hsrst rest (hop ▸ hp))
    · exact absurd hp (hreset rest)
    · rw [hsame]; exact hset

end

/-! PROOFS. Which command can end in which error: for each mark of the table a state that ends so (60_exceptions.md R247). -/

section
namespace Sys2Proof.Machine

/-- Some state makes the command end in an error of this kind. -/
def EndsIn (i : Instr) (k : ErrKind) : Prop := ∃ s t, exec i s = .next t ∧ statusErr t.regs.status = k.code

/-- A blank of the table: every error of a command is of a kind its row marks. -/
theorem canEndIn_of_endsIn {i : Instr} {k : ErrKind} (h : EndsIn i k) : canEndIn i k = true := by
  obtain ⟨s, t, ht, hcode⟩ := h
  obtain ⟨v, after, hform⟩ := command_form i s
  cases ht.symm.trans hform.eq
  cases v with
  | none =>
    have hzero : k.code = 0 := hcode.symm.trans after.complete_ok
    exact absurd hzero k.code_ne_zero
  | some e =>
    obtain ⟨hkind, -⟩ := hform.err e rfl
    have hk : e.kind = k := ErrKind.code_injective ((statusErr_statusWord _ _).symm.trans hcode)
    exact hk ▸ hkind

theorem endsIn_of_verdict {i : Instr} {s after : State} {v : Option CmdError} {e : CmdError}
    (hexec : exec i s = .next (s.conclude v after)) (hv : v = some e) : EndsIn i e.kind :=
  ⟨s, s.enterError e, exec_of_verdict hexec hv, statusErr_statusWord _ _⟩

/-! ### The rows of commands with several marks

Each error is written out where no lemma on its state names it. -/

/-- The reset state with a header all of whose tests pass; the secret is null and the Unencrypted flag clear. -/
def validHeaderState : State :=
  { State.reset with regs := { Regs.reset with hMajor := 1, hMinor := 2, hType := 1, hSeq := 1 } }

/-- A packet of that header without a body, which declares `n` bytes of body. -/
def emptyPacket (n : Byte) : Bytes := [0x12, 1, 1, 0, 0, 0, 0, 0, 0, 0, 0, n]

/-- A body to parse, in a block with HAS_AUTHOR_REPLY true whose header announces a Start of length 0. -/
def bodyState (body : Bytes) : State :=
  { State.resetWith { Config.reference with hasAuthorReply := true } with
    regs := { Regs.reset with hType := 1, hSeq := 1 }
    mem := { Memory.reset with body := body } }

/-- An empty HBUF, and twelve zeros, whose type is 0. -/
theorem hdrDec_endsIn {k : ErrKind} (h : canEndIn .hdrDec k = true) : EndsIn .hdrDec k := by
  simp only [canEndIn, Bool.or_eq_true, beq_iff_eq] at h
  obtain rfl | rfl := h
  · exact endsIn_of_verdict (exec_hdrDec State.reset) (hdrDecVerdict_nil _)
  · exact endsIn_of_verdict (e := ⟨.invalidField, 0, 0, 3⟩) (exec_hdrDec (State.reset.writeBuf .hbuf (List.replicate 12 0)))
      (by decide)

/-- Type 0, and a valid header with the null secret. -/
theorem pktAsm_endsIn {k : ErrKind} (h : canEndIn .pktAsm k = true) : EndsIn .pktAsm k := by
  simp only [canEndIn, Bool.or_eq_true, beq_iff_eq] at h
  obtain rfl | rfl := h
  · exact endsIn_of_verdict (e := ⟨.invalidField, 0, 0, 3⟩) (exec_pktAsm State.reset) (by decide)
  · exact endsIn_of_verdict (e := ⟨.configError, 0, 0, 0⟩) (exec_pktAsm validHeaderState) (by decide)

/-- An empty WIRE, twelve zeros, a packet one byte short, and a whole packet with the null secret. -/
theorem pktDis_endsIn {k : ErrKind} (h : canEndIn .pktDis k = true) : EndsIn .pktDis k := by
  simp only [canEndIn, Bool.or_eq_true, beq_iff_eq, or_assoc] at h
  obtain rfl | rfl | rfl | rfl := h
  · exact endsIn_of_verdict (exec_pktDis State.reset) (packetVerdict_nil _ _)
  · exact endsIn_of_verdict (e := ⟨.invalidField, 0, 0, 3⟩) (exec_pktDis (State.reset.writeBuf .wire (List.replicate 12 0)))
      (by decide)
  · exact endsIn_of_verdict (e := ⟨.lengthMismatch, 1, 0, 0⟩) (exec_pktDis (State.reset.writeBuf .wire (emptyPacket 1)))
      (by decide)
  · exact endsIn_of_verdict (e := ⟨.configError, 0, 0, 0⟩) (exec_pktDis (State.reset.writeBuf .wire (emptyPacket 0)))
      (by decide)

/-- An empty body, action 0, and a body of 8 valid bytes where `H_LEN` is 0. -/
theorem asDec_endsIn {k : ErrKind} (h : canEndIn .asDec k = true) : EndsIn .asDec k := by
  simp only [canEndIn, Bool.or_eq_true, beq_iff_eq, or_assoc] at h
  obtain rfl | rfl | rfl := h
  · exact endsIn_of_verdict (exec_asDec (bodyState [])) (startVerdict_nil _ _)
  · exact endsIn_of_verdict (e := ⟨.invalidField, 0, 0, 5⟩) (exec_asDec (bodyState [0, 0, 1, 0, 0, 0, 0, 0])) (by decide)
  · exact endsIn_of_verdict (e := ⟨.lengthMismatch, 0, 8, 0⟩) (exec_asDec (bodyState [1, 0, 1, 0, 0, 0, 0, 0])) (by decide)

/-- An empty body, status 0, and a body of 6 valid bytes where `H_LEN` is 0. -/
theorem arDec_endsIn {k : ErrKind} (h : canEndIn .arDec k = true) : EndsIn .arDec k := by
  simp only [canEndIn, Bool.or_eq_true, beq_iff_eq, or_assoc] at h
  obtain rfl | rfl | rfl := h
  · exact endsIn_of_verdict (exec_arDec (bodyState [])) (replyVerdict_nil _ _)
  · exact endsIn_of_verdict (e := ⟨.invalidField, 0, 0, 9⟩) (exec_arDec (bodyState [0, 0, 0, 0, 0, 0])) (by decide)
  · exact endsIn_of_verdict (e := ⟨.lengthMismatch, 0, 6, 0⟩) (exec_arDec (bodyState [1, 0, 0, 0, 0, 0])) (by decide)

/-- An empty body, flags 2, and a body of 5 valid bytes where `H_LEN` is 0. -/
theorem acDec_endsIn {k : ErrKind} (h : canEndIn .acDec k = true) : EndsIn .acDec k := by
  simp only [canEndIn, Bool.or_eq_true, beq_iff_eq, or_assoc] at h
  obtain rfl | rfl | rfl := h
  · exact endsIn_of_verdict (exec_acDec (bodyState [])) (continueVerdict_nil _ _)
  · exact endsIn_of_verdict (e := ⟨.invalidField, 2, 0, 11⟩) (exec_acDec (bodyState [0, 0, 0, 0, 2])) (by decide)
  · exact endsIn_of_verdict (e := ⟨.lengthMismatch, 0, 5, 0⟩) (exec_acDec (bodyState [0, 0, 0, 0, 0])) (by decide)

/-- As for the other parsers; and HAS_AUTHOR_REPLY false, as in the reset state. -/
theorem zrDec_endsIn {k : ErrKind} (h : canEndIn .zrDec k = true) : EndsIn .zrDec k := by
  simp only [canEndIn, Bool.or_eq_true, beq_iff_eq, or_assoc] at h
  obtain rfl | rfl | rfl | rfl := h
  · exact endsIn_of_verdict (exec_zrDec (bodyState [])) (authorReplyVerdict_nil _ _ _)
  · exact endsIn_of_verdict (e := ⟨.invalidField, 0, 0, 13⟩) (exec_zrDec (bodyState [0, 0, 0, 0, 0, 0])) (by decide)
  · exact endsIn_of_verdict (e := ⟨.lengthMismatch, 0, 6, 0⟩) (exec_zrDec (bodyState [1, 0, 0, 0, 0, 0])) (by decide)
  · exact endsIn_of_verdict (exec_zrDec State.reset) (authorReplyVerdict_nil _ _ _)

/-- The body is announced as a Start, so BODY_DEC parses it as AS_DEC does (44_packet_ops.md R203, R204). -/
theorem exec_bodyDec_bodyState (body : Bytes) : exec .bodyDec (bodyState body) = exec .asDec (bodyState body) :=
  exec_bodyDec_start rfl rfl

/-- Type 0, and type 3, are refused by the dispatch table; the sizes and lengths are the Start parser's. -/
theorem bodyDec_endsIn {k : ErrKind} (h : canEndIn .bodyDec k = true) : EndsIn .bodyDec k := by
  simp only [canEndIn, Bool.or_eq_true, beq_iff_eq, or_assoc] at h
  obtain rfl | rfl | rfl | rfl := h
  · exact endsIn_of_verdict ((exec_bodyDec_bodyState []).trans (exec_asDec _)) (startVerdict_nil _ _)
  · exact ⟨State.reset, _, exec_bodyDec_of_route (route := .refuse ⟨.invalidField, 0, 0, 3⟩) rfl,
      statusErr_statusWord _ _⟩
  · exact endsIn_of_verdict (e := ⟨.lengthMismatch, 0, 8, 0⟩)
      ((exec_bodyDec_bodyState [1, 0, 1, 0, 0, 0, 0, 0]).trans (exec_asDec _)) (by decide)
  · exact ⟨_, _, exec_bodyDec_accounting (s := { State.reset with regs := { Regs.reset with hType := 3 } }) rfl,
      statusErr_statusWord _ _⟩

/-! ### The table -/

/-- A mark of the table. HDR_ENC, CIPHER and the serialisers have one each, and the reset state raises it but for AC_ENC, which
accepts the flags 0. -/
theorem endsIn_of_canEndIn {i : Instr} {k : ErrKind} (h : canEndIn i k = true) : EndsIn i k := by
  cases i with
  | nop | clrf | srst => cases h
  | hdrEnc =>
    obtain rfl := eq_of_beq h
    exact endsIn_of_verdict (exec_hdrEnc State.reset) (headerVerdict_reset _)
  | cipher =>
    obtain rfl := eq_of_beq h
    exact endsIn_of_verdict (exec_cipher State.reset) secretVerdict_reset
  | asEnc =>
    obtain rfl := eq_of_beq h
    exact endsIn_of_verdict (e := ⟨.invalidField, 0, 0, 5⟩) (exec_asEnc State.reset) (by decide)
  | arEnc =>
    obtain rfl := eq_of_beq h
    exact endsIn_of_verdict (e := ⟨.invalidField, 0, 0, 9⟩) (exec_arEnc State.reset) (by decide)
  | acEnc =>
    obtain rfl := eq_of_beq h
    exact endsIn_of_verdict (e := ⟨.invalidField, 2, 0, 11⟩)
      (exec_acEnc { State.reset with regs := { Regs.reset with acFlags := 2 } }) (by decide)
  | zqEnc =>
    obtain rfl := eq_of_beq h
    exact endsIn_of_verdict (e := ⟨.invalidField, 0, 0, 7⟩) (exec_zqEnc State.reset) (by decide)
  | hdrDec => exact hdrDec_endsIn h
  | pktAsm => exact pktAsm_endsIn h
  | pktDis => exact pktDis_endsIn h
  | asDec => exact asDec_endsIn h
  | arDec => exact arDec_endsIn h
  | acDec => exact acDec_endsIn h
  | zrDec => exact zrDec_endsIn h
  | bodyDec => exact bodyDec_endsIn h

end Sys2Proof.Machine
end

section
open Sys2Proof Sys2Proof.Machine

/-- Settles O24: a blank from the form of every command, a mark from a state that ends so, and the other opcodes from the write to
CMD. -/
theorem errorTable : Obligations.ErrorTable :=
  ⟨fun _ _ => ⟨canEndIn_of_endsIn, endsIn_of_canEndIn⟩,
    fun _ s hillegal => ⟨_, runCommand_error hillegal s, statusErr_statusWord _ _⟩⟩

end

/-! PROOFS. The reset state register by register and buffer by buffer, the hardware reset, and the block that waits
(70_reset_and_hazards.md R260, R261). -/

section
namespace Sys2Proof.Machine

/-- Every register but the derived one is 0 at reset (10_state.md R35). -/
theorem Regs.reset_read {r : Reg} (h : r ≠ .hDerived) : Regs.reset.read r = 0 := by
  cases r
  case hDerived => exact absurd rfl h
  all_goals rfl

/-- Every buffer is empty at reset, the 255 argument buffers too (10_state.md R35). -/
theorem Memory.reset_read (b : Buf) : Memory.reset.read b = [] := by
  cases b
  case arg i => exact Vector.getElem_replicate i.isLt
  all_goals rfl

/-- What a reset keeps of a state is the parameters and the two fields of the host's side. -/
theorem State.resetBlock_eq (s : State) :
    s.resetBlock = { State.resetWith s.params with pending := s.pending, answer := s.answer } := rfl

end Sys2Proof.Machine
end

section
open Sys2Proof Sys2Proof.Machine

/-- Settles O5: the step looks at the host's list first, and finds nothing to perform. -/
theorem stepWaitsWithNothingPending : Obligations.StepWaitsWithNothingPending := fun _ => step_nil

/-- Settles O14: the reset values are those of `Regs.reset` and `Memory.reset`, and no parameter enters them. -/
theorem resetValues : Obligations.ResetValues := by
  rintro s (rfl | ⟨p, rfl⟩)
  all_goals exact ⟨fun _ => Regs.reset_read, Regs.reset_read_hDerived, Memory.reset_read⟩

/-- Settles O15: the step is `resetBlock` with the reset taken off the host's list and the last answer dropped. -/
theorem hardResetEqualsReset : Obligations.HardResetEqualsReset :=
  fun _ _ hp => (step_cons hp).trans (congrArg Host.Outcome.next (State.resetBlock_eq _))

end
